-- ==== Sys2Proof/Word.lean ====
section
/-! DEFINITION. The plain types of the block: bits, bit sequences, state codes and time tags.

A bit is a boolean, `true` is 1 (00_scope.md R9, decision D5). -/

namespace Sys2Proof

/-- One bit; `true` is 1 and `false` is 0 (00_scope.md R9). -/
abbrev Bit := Bool

/-- A bit sequence, its front at the head of the list (00_scope.md R10). -/
abbrev Bits := List Bit

/-- The code a 4-bit TAP state register holds (10_state.md R22). Each of its values is the code of a state (DEDUCED, safe,
log entry 7). -/
abbrev StateCode := BitVec 4

/-- The time type of the instance that the host runs. The type is a parameter of the spec (00_scope.md R8, decision D11)
and an argument of the model: of `FrameOf`, `InputOf`, `EventOf`, `stepOver` and `runOver`.
DESIGN CHOICE: at the fixed names, the naturals, as the frame notation of 30_encoding.md R71 uses them (unsafe only for a
claim that computes with a tag, log entry 1). -/
abbrev NatTime := Nat

end Sys2Proof
end

