-- ==== Sys2Proof/Machine/Operands.lean ====
section
/-! DEFINITION. Bit sequences as the operations read and write them: the two insertion ends, the aggregate value,
the capacity of a field, and the equivalent (length, value) form of a field. -/

namespace Sys2Proof.Machine

/-- The end of a field at which a shift inserts its bit (20_memory.md R44). -/
inductive InsertEnd where
  | front
  | back
  deriving DecidableEq, Repr

/-- A field after one bit is inserted at an end: appended at the back, prepended at the front (00_scope.md R10). -/
def insertBit (place : InsertEnd) (b : Bit) (field : Bits) : Bits :=
  match place with
  | .front => b :: field
  | .back => field ++ [b]

/-- The insertion end of the DR to-target field (20_memory.md R44). -/
def drTtEnd : InsertEnd := .back

/-- The insertion end of the DR to-host field (20_memory.md R44). -/
def drThEnd : InsertEnd := .front

/-- The insertion end of the IR to-target field (20_memory.md R44). -/
def irTtEnd : InsertEnd := .front

/-- The insertion end of the IR to-host field (20_memory.md R44). -/
def irThEnd : InsertEnd := .back

/-- `val`: the natural number of a bit sequence, its front bit the most significant; 0 for the empty one
(00_scope.md R11). -/
def val (field : Bits) : Nat :=
  field.foldl (fun v b => 2 * v + b.toNat) 0

/-- The field already holds `BUF_MAX` bits, in a finite instance (41_shift_accumulator.md R113, R116). The test is
equality of lengths, as the rules write it (DEDUCED, unsafe for a field already longer, which no run reaches, log entry 15). -/
def fieldFull (bufMax : Option Nat) (field : Bits) : Bool :=
  match bufMax with
  | none => false
  | some n => field.length == n

/-- The `n`-bit sequence of a number, most significant bit first. -/
def bitsOf : Nat → Nat → Bits
  | 0, _ => []
  | n + 1, v => bitsOf n (v / 2) ++ [v % 2 == 1]

/-- The fixed-register form of a field: its length and its value (10_state.md R29). -/
def pairOf (field : Bits) : Nat × Nat :=
  (field.length, val field)

/-- Insertion on the fixed-register form: an append shifts left and inserts at bit 0, a prepend inserts at bit `n`
(10_state.md R29). -/
def insertPair (place : InsertEnd) (b : Bit) (p : Nat × Nat) : Nat × Nat :=
  match place with
  | .front => (p.1 + 1, p.2 + b.toNat * 2 ^ p.1)
  | .back => (p.1 + 1, 2 * p.2 + b.toNat)

end Sys2Proof.Machine
end

