-- ==== Sys2Proof/Config.lean ====
section
/-! DEFINITION. What an instance of the block fixes (00_scope.md R8). No step changes it. -/

namespace Sys2Proof

/-- The parameters of one instance. -/
structure Config where
  /-- `BUF_MAX`: how many bits a buffer field can hold, `none` for no bound (10_state.md R28). -/
  bufMax : Option Nat
  deriving DecidableEq, Repr

/-- The reference model: `BUF_MAX = none` (00_scope.md R8). -/
def Config.reference : Config := { bufMax := none }

end Sys2Proof
end

