-- ==== Sys2Proof/Syntax.lean ====
section
/-! DEFINITION. The names of the spec: the 16 TAP states, the sample frame, the instruction names, the words of
the two code spaces, and the instructions, one constructor per row of the opcode table. -/

namespace Sys2Proof

/-- The 16 TAP states, in the order of 10_state.md R21 and under the short names of R22. -/
inductive TapState where
  | tlr | rti | selDr | capDr | shDr | ex1Dr | pauDr | ex2Dr | updDr
  | selIr | capIr | shIr | ex1Ir | pauIr | ex2Ir | updIr
  deriving DecidableEq, Repr

/-- The register kind of an event (30_encoding.md R65). -/
inductive RegKind where
  | dr
  | ir
  deriving DecidableEq, Repr

/-- The output of the decode table: its 14 names and the fallback (30_encoding.md R68). -/
inductive InstrName where
  | irAddr16bit | irAddrCapture | irDataToAddr | irData16bit | irDataQuick | irBypass
  | irCntrlSig16bit | irCntrlSigCapture | irCntrlSigRelease | irDataPsa | irShiftOutPsa
  | irPrepareBlow | irExBlow | irJmbExchange | unknown
  deriving DecidableEq, Repr

/-- A sample frame over a time type: its interval, the control bit and the two data bits (30_encoding.md R60). -/
structure FrameOf (Time : Type) where
  tStart : Time
  tEnd : Time
  c : Bit
  t : Bit
  h : Bit
  deriving DecidableEq, Repr

/-- One item the outside presents: a reset, which acts between frames, or a frame (30_encoding.md R74). -/
inductive InputOf (Time : Type) where
  | rst
  | frame (f : FrameOf Time)
  deriving DecidableEq, Repr

/-- A frame of the instance that the host runs. -/
abbrev Frame := FrameOf NatTime

/-- An input of the instance that the host runs. -/
abbrev Input := InputOf NatTime

/-- A word of one of the two code spaces of the opcode table (30_encoding.md R73): a frame operation word with the
interval of its frame (R62), or an instruction-register value (R67). -/
inductive CodeWord where
  | frame (bits : Nat) (tStart tEnd : NatTime)
  | irv (value : Nat)
  deriving DecidableEq, Repr

/-- The instructions. The 16 `FRAME` rows are the pair of a pre-transition state and a frame (40_tap_fsm.md R81 to
R96); the 15 `IRV` rows are the entries of the decode table (42_ir_decode.md R141 to R155). -/
inductive Instr where
  | nopTlr (f : Frame)
  | nopRti (f : Frame)
  | nopSelDr (f : Frame)
  | drClearCapDr (f : Frame)
  | drShiftShDr (f : Frame)
  | nopEx1Dr (f : Frame)
  | nopPauDr (f : Frame)
  | nopEx2Dr (f : Frame)
  | drUpdateUpdDr (f : Frame)
  | nopSelIr (f : Frame)
  | irClearCapIr (f : Frame)
  | irShiftShIr (f : Frame)
  | nopEx1Ir (f : Frame)
  | nopPauIr (f : Frame)
  | nopEx2Ir (f : Frame)
  | irUpdateUpdIr (f : Frame)
  | irAddr16bit
  | irAddrCapture
  | irDataToAddr
  | irData16bit
  | irDataQuick
  | irBypass
  | irCntrlSig16bit
  | irCntrlSigCapture
  | irCntrlSigRelease
  | irDataPsa
  | irShiftOutPsa
  | irPrepareBlow
  | irExBlow
  | irJmbExchange
  | unknown (v : Nat)
  deriving DecidableEq, Repr

end Sys2Proof
end

