-- ==== Sys2Proof/Machine/State.lean ====
section
/-! DEFINITION. The state of the block (10_state.md R20), its faults, its event output, and the state at reset. -/

namespace Sys2Proof.Machine

/-- The faults of 60_exceptions.md R170. The spec describes the entry into a fault (R172), so a step that raises one
answers a next state whose `fault` element holds it, and no step of this model answers `Host.Outcome.fault`
(DEDUCED, safe, log entry 6). -/
inductive Fault where
  /-- Raised by a step that finds `prev` outside the 16 states; `prev` is the offending value (60_exceptions.md
  R171). A 4-bit `tap` never raises it. Safe. -/
  | invalidState (prev : Nat)
  /-- Raised by DR.SHIFT and IR.SHIFT on a field that holds `BUF_MAX` bits, in a finite instance only; it records the
  shift state (60_exceptions.md R174). Safe. -/
  | capacityExceeded (shift : TapState)
  deriving DecidableEq, Repr

/-- The reasons to answer no next state. No meaning of this model has one. -/
inductive Refusal where
  /-- The arm of an instruction that has no meaning yet would raise it; no arm does. Safe. -/
  | notModelled (mnemonic : String)
  deriving DecidableEq, Repr

/-- A protocol event over a time type (30_encoding.md R65). The values are numbers (R66); a `dr` event has no
instruction. -/
structure EventOf (Time : Type) where
  tStart : Time
  tEnd : Time
  kind : RegKind
  toTarget : Nat
  toHost : Nat
  instruction : Option InstrName
  deriving DecidableEq, Repr

/-- An event of the instance that the host runs. -/
abbrev Event := EventOf NatTime

/-- The block of 10_state.md R20 (`tap` to `fault`), its event output, and the environment it stands in. -/
structure State where
  /-- The TAP state register (R21, R22). -/
  tap : StateCode
  /-- DR buffer, to-target field (R25). -/
  drTt : Bits
  /-- DR buffer, to-host field. -/
  drTh : Bits
  /-- IR buffer, to-target field. -/
  irTt : Bits
  /-- IR buffer, to-host field. -/
  irTh : Bits
  /-- The sticky fault cause, none while the block runs (R20, 60_exceptions.md R170). -/
  fault : Option Fault
  /-- The event output of the last step (30_encoding.md R74). The model's own field (DESIGN CHOICE, unsafe for
  a claim that counts it as state of the block, log entry 5). -/
  event : Option Event
  /-- The instance parameters (00_scope.md R8). The model's own field, written by no step (DESIGN CHOICE, unsafe
  for a claim about other instances from `State.reset` alone, log entry 2). -/
  cfg : Config
  /-- The inputs not yet taken, the next one first. The model's own field (DESIGN CHOICE, unsafe for
  a claim about the run from `State.reset`, log entry 3). -/
  pending : List Input
  /-- The events emitted so far, the oldest first. The model's own field (DESIGN CHOICE, unsafe as `event`
  is, log entry 5). -/
  emitted : List Event
  deriving DecidableEq, Repr

/-- The block at reset and at power-up (10_state.md R37, 70_reset_and_hazards.md R190), of the reference model, with
no input presented and nothing emitted. -/
def State.reset : State where
  tap := 1
  drTt := []
  drTh := []
  irTt := []
  irTh := []
  fault := none
  event := none
  cfg := Config.reference
  pending := []
  emitted := []

end Sys2Proof.Machine
end

