-- ==== Sys2Proof/Decode.lean ====
section
/-! DEFINITION. The codes of the TAP states and of the instruction names, the decode table, the decoder of both
code spaces, and the encoder, written apart from it from the same tables (10_state.md R22, 30_encoding.md R62 to
R68, 42_ir_decode.md R140 to R156). -/

namespace Sys2Proof

/-- The 4-bit code of a TAP state (10_state.md R22). -/
def TapState.code : TapState → StateCode
  | .tlr => 0
  | .rti => 1
  | .selDr => 2
  | .capDr => 3
  | .shDr => 4
  | .ex1Dr => 5
  | .pauDr => 6
  | .ex2Dr => 7
  | .updDr => 8
  | .selIr => 9
  | .capIr => 10
  | .shIr => 11
  | .ex1Ir => 12
  | .pauIr => 13
  | .ex2Ir => 14
  | .updIr => 15

/-- The state a code names, none for a number that is no code of a state (10_state.md R22, 60_exceptions.md R171). -/
def tapStateOf : Nat → Option TapState
  | 0 => some .tlr
  | 1 => some .rti
  | 2 => some .selDr
  | 3 => some .capDr
  | 4 => some .shDr
  | 5 => some .ex1Dr
  | 6 => some .pauDr
  | 7 => some .ex2Dr
  | 8 => some .updDr
  | 9 => some .selIr
  | 10 => some .capIr
  | 11 => some .shIr
  | 12 => some .ex1Ir
  | 13 => some .pauIr
  | 14 => some .ex2Ir
  | 15 => some .updIr
  | _ => none

/-- The 4-bit output code of an instruction name; code 15 is never produced (30_encoding.md R68). -/
def InstrName.code : InstrName → BitVec 4
  | .irAddr16bit => 0
  | .irAddrCapture => 1
  | .irDataToAddr => 2
  | .irData16bit => 3
  | .irDataQuick => 4
  | .irBypass => 5
  | .irCntrlSig16bit => 6
  | .irCntrlSigCapture => 7
  | .irCntrlSigRelease => 8
  | .irDataPsa => 9
  | .irShiftOutPsa => 10
  | .irPrepareBlow => 11
  | .irExBlow => 12
  | .irJmbExchange => 13
  | .unknown => 14

/-- The decode table as the source gives it, left column first (42_ir_decode.md R140). Its literals are used as
given (R159; UNVERIFIED against any device, so unsafe for a claim about one, log entry 14). -/
def irTable : List (Nat × InstrName) :=
  [(0x83, .irAddr16bit), (0x84, .irAddrCapture), (0x85, .irDataToAddr), (0x41, .irData16bit),
   (0x43, .irDataQuick), (0xFF, .irBypass), (0x13, .irCntrlSig16bit), (0x14, .irCntrlSigCapture),
   (0x15, .irCntrlSigRelease), (0x44, .irDataPsa), (0x46, .irShiftOutPsa), (0x22, .irPrepareBlow),
   (0x24, .irExBlow), (0x61, .irJmbExchange)]

/-- `Decode`: the name of an instruction-register value, `UNKNOWN` for a value no entry lists; the whole value is
compared, as a natural number (42_ir_decode.md R140, R155, R156). -/
def decodeName (v : Nat) : InstrName :=
  (irTable.lookup v).getD .unknown

/-- The instruction of a decode table entry; the fallback carries the value that no entry lists. -/
def entryInstr (v : Nat) : InstrName → Instr
  | .irAddr16bit => .irAddr16bit
  | .irAddrCapture => .irAddrCapture
  | .irDataToAddr => .irDataToAddr
  | .irData16bit => .irData16bit
  | .irDataQuick => .irDataQuick
  | .irBypass => .irBypass
  | .irCntrlSig16bit => .irCntrlSig16bit
  | .irCntrlSigCapture => .irCntrlSigCapture
  | .irCntrlSigRelease => .irCntrlSigRelease
  | .irDataPsa => .irDataPsa
  | .irShiftOutPsa => .irShiftOutPsa
  | .irPrepareBlow => .irPrepareBlow
  | .irExBlow => .irExBlow
  | .irJmbExchange => .irJmbExchange
  | .unknown => .unknown v

/-- The instruction of a frame taken in a pre-transition state (30_encoding.md R63). -/
def frameInstr (prev : TapState) (f : Frame) : Instr :=
  match prev with
  | .tlr => .nopTlr f
  | .rti => .nopRti f
  | .selDr => .nopSelDr f
  | .capDr => .drClearCapDr f
  | .shDr => .drShiftShDr f
  | .ex1Dr => .nopEx1Dr f
  | .pauDr => .nopPauDr f
  | .ex2Dr => .nopEx2Dr f
  | .updDr => .drUpdateUpdDr f
  | .selIr => .nopSelIr f
  | .capIr => .irClearCapIr f
  | .shIr => .irShiftShIr f
  | .ex1Ir => .nopEx1Ir f
  | .pauIr => .nopPauIr f
  | .ex2Ir => .nopEx2Ir f
  | .updIr => .irUpdateUpdIr f

/-- Why a word is no instruction: its state field `W / 8` is none of the 16 state codes. A word formed from a 4-bit
state register is never rejected (30_encoding.md R64); a step that meets a rejection raises InvalidState
(60_exceptions.md R171). -/
inductive Reject where
  | stateOutside (code : Nat)
  deriving DecidableEq, Repr

/-- The frame whose bits are `c = W[2]`, `t = W[1]`, `h = W[0]` (30_encoding.md R62). -/
def frameOfWord (bits : Nat) (tStart tEnd : NatTime) : Frame :=
  { tStart := tStart, tEnd := tEnd, c := bits / 4 % 2 == 1, t := bits / 2 % 2 == 1,
    h := bits % 2 == 1 }

/-- The decoder, total on the words of both code spaces (30_encoding.md R62, R64, R67). -/
def decode : CodeWord → Except Reject Instr
  | .frame bits tStart tEnd =>
    match tapStateOf (bits / 8) with
    | some prev => .ok (frameInstr prev (frameOfWord bits tStart tEnd))
    | none => .error (.stateOutside (bits / 8))
  | .irv v => .ok (entryInstr v (decodeName v))

/-- The word `{s, c, t, h}` of a state code and a frame, with the frame's interval (30_encoding.md R62). -/
def frameWord (code : Nat) (f : Frame) : CodeWord :=
  .frame (code * 8 + f.c.toNat * 4 + f.t.toNat * 2 + f.h.toNat) f.tStart f.tEnd

/-- The encoder, from the maps of 30_encoding.md R63 and R68. -/
def encode : Instr → CodeWord
  | .nopTlr f => frameWord 0b0000 f
  | .nopRti f => frameWord 0b0001 f
  | .nopSelDr f => frameWord 0b0010 f
  | .drClearCapDr f => frameWord 0b0011 f
  | .drShiftShDr f => frameWord 0b0100 f
  | .nopEx1Dr f => frameWord 0b0101 f
  | .nopPauDr f => frameWord 0b0110 f
  | .nopEx2Dr f => frameWord 0b0111 f
  | .drUpdateUpdDr f => frameWord 0b1000 f
  | .nopSelIr f => frameWord 0b1001 f
  | .irClearCapIr f => frameWord 0b1010 f
  | .irShiftShIr f => frameWord 0b1011 f
  | .nopEx1Ir f => frameWord 0b1100 f
  | .nopPauIr f => frameWord 0b1101 f
  | .nopEx2Ir f => frameWord 0b1110 f
  | .irUpdateUpdIr f => frameWord 0b1111 f
  | .irAddr16bit => .irv 0x83
  | .irAddrCapture => .irv 0x84
  | .irDataToAddr => .irv 0x85
  | .irData16bit => .irv 0x41
  | .irDataQuick => .irv 0x43
  | .irBypass => .irv 0xFF
  | .irCntrlSig16bit => .irv 0x13
  | .irCntrlSigCapture => .irv 0x14
  | .irCntrlSigRelease => .irv 0x15
  | .irDataPsa => .irv 0x44
  | .irShiftOutPsa => .irv 0x46
  | .irPrepareBlow => .irv 0x22
  | .irExBlow => .irv 0x24
  | .irJmbExchange => .irv 0x61
  | .unknown v => .irv v

/-- The word that a row of the opcode table with `nbits` bits of value `w` stands for. A frame operation word has 7
bits, so one byte below 128 is read as one, with time tags 0; any other word is an instruction-register value.
DESIGN CHOICE: the table's words carry no mark of their code space (unsafe for a
value below 128 given with 8 bits, log entry 10). -/
def tableWord (nbits w : Nat) : CodeWord :=
  if nbits ≤ 8 ∧ w < 128 then .frame w 0 0 else .irv w

/-- The instruction the decoder reads from a word of the opcode table. -/
def decodeTableWord (nbits w : Nat) : Option Instr :=
  match decode (tableWord nbits w) with
  | .ok i => some i
  | .error _ => none

end Sys2Proof
end

