-- ==== Sys2Proof/Machine/Transition.lean ====
section
/-! DEFINITION. The transition function of the TAP state machine (40_tap_fsm.md R80 to R96). -/

namespace Sys2Proof.Machine

/-- `T`: the next state of a state and a control bit, the source's table row by row (40_tap_fsm.md R80). -/
def transition (prev : TapState) (c : Bit) : TapState :=
  match prev with
  | .tlr => if c then .tlr else .rti
  | .rti => if c then .selDr else .rti
  | .selDr => if c then .selIr else .capDr
  | .capDr => if c then .ex1Dr else .shDr
  | .shDr => if c then .ex1Dr else .shDr
  | .ex1Dr => if c then .updDr else .pauDr
  | .pauDr => if c then .ex2Dr else .pauDr
  | .ex2Dr => if c then .updDr else .shDr
  | .updDr => if c then .selDr else .rti
  | .selIr => if c then .tlr else .capIr
  | .capIr => if c then .ex1Ir else .shIr
  | .shIr => if c then .ex1Ir else .shIr
  | .ex1Ir => if c then .updIr else .pauIr
  | .pauIr => if c then .ex2Ir else .pauIr
  | .ex2Ir => if c then .updIr else .shIr
  | .updIr => if c then .selDr else .rti

end Sys2Proof.Machine
end

