-- ==== Sys2Proof/Machine/Ops.lean ====
section
/-! DEFINITION. The named operations on the state that the meanings share: the write of `tap`, the six buffer
actions, the lookup's write into the event, the entry into a fault, and the reset that leaves it. -/

namespace Sys2Proof.Machine

/-- "No event for this frame" (41_shift_accumulator.md R121). -/
def State.noEvent (s : State) : State :=
  { s with event := none }

/-- The write of `tap` by a frame taken in state `prev` (40_tap_fsm.md R80). An action may add an event to it. -/
def State.advance (prev : TapState) (c : Bit) (s : State) : State :=
  { s with tap := (transition prev c).code, event := none }

/-- DR.CLEAR (41_shift_accumulator.md R112). -/
def State.clearDr (s : State) : State :=
  { s with drTt := [], drTh := [] }

/-- IR.CLEAR (41_shift_accumulator.md R115). -/
def State.clearIr (s : State) : State :=
  { s with irTt := [], irTh := [] }

/-- A DR shift finds a field that holds `BUF_MAX` bits (41_shift_accumulator.md R113). -/
def State.drFull (s : State) : Bool :=
  fieldFull s.cfg.bufMax s.drTt || fieldFull s.cfg.bufMax s.drTh

/-- An IR shift finds a field that holds `BUF_MAX` bits (41_shift_accumulator.md R116). -/
def State.irFull (s : State) : Bool :=
  fieldFull s.cfg.bufMax s.irTt || fieldFull s.cfg.bufMax s.irTh

/-- The writes of DR.SHIFT (41_shift_accumulator.md R113). -/
def State.shiftDr (t h : Bit) (s : State) : State :=
  { s with drTt := insertBit drTtEnd t s.drTt, drTh := insertBit drThEnd h s.drTh }

/-- The writes of IR.SHIFT (41_shift_accumulator.md R116). -/
def State.shiftIr (t h : Bit) (s : State) : State :=
  { s with irTt := insertBit irTtEnd t s.irTt, irTh := insertBit irThEnd h s.irTh }

/-- The event of DR.UPDATE (41_shift_accumulator.md R114). No buffer is written. -/
def State.emitDr (f : Frame) (s : State) : State :=
  { s with event := some { tStart := f.tStart, tEnd := f.tEnd, kind := .dr,
                           toTarget := val s.drTt, toHost := val s.drTh, instruction := none } }

/-- The event of IR.UPDATE before the decode entry writes its name (41_shift_accumulator.md R117). -/
def State.emitIr (f : Frame) (s : State) : State :=
  { s with event := some { tStart := f.tStart, tEnd := f.tEnd, kind := .ir,
                           toTarget := val s.irTt, toHost := val s.irTh, instruction := none } }

/-- The name in the event being emitted: an `ir` event takes it, a `dr` event has no instruction
(30_encoding.md R65, 42_ir_decode.md R157). -/
def nameEvent (name : InstrName) (e : Event) : Event :=
  match e.kind with
  | .ir => { e with instruction := some name }
  | .dr => e

/-- What a decode table entry does: its name goes into the `instruction` field of the `ir` event being emitted, and
nothing else changes (42_ir_decode.md, opening words; 41_shift_accumulator.md R117). -/
def State.writeName (name : InstrName) (s : State) : State :=
  { s with event := s.event.map (nameEvent name) }

/-- TAKING A FAULT: none of the step's other writes, no event, the cause in `fault` (60_exceptions.md R172). -/
def State.takeFault (cause : Fault) (s : State) : State :=
  { s with fault := some cause, event := none }

/-- THE RETURN FROM A FAULT, which is reset and nothing else: every element of the block at its reset value, no event
(60_exceptions.md R173, 70_reset_and_hazards.md R190). The instance, its inputs and what it emitted stay
(DESIGN CHOICE, safe for the block's own elements, log entry 16). -/
def State.applyReset (s : State) : State :=
  { State.reset with cfg := s.cfg, pending := s.pending, emitted := s.emitted }

end Sys2Proof.Machine
end

