-- ==== Sys2Proof/Machine/DrFrames.lean ====
section
/-! DEFINITION. The meanings of the three FRAME rows with a data-register action. -/

namespace Sys2Proof.Machine

/-- A frame taken in CAPTURE-DR: DR.CLEAR, with c = 1 too, though 40_tap_fsm.md R98 says of a path of ones that it leaves
the buffers (40_tap_fsm.md R84, 41_shift_accumulator.md R112; DEDUCED, unsafe if R98 were meant, log entry 17). -/
def execDrClearCapDr (f : Frame) (s : State) : Host.Outcome State Fault Refusal :=
  .next (s.advance .capDr f.c).clearDr

/-- A frame taken in SHIFT-DR: DR.SHIFT, or CapacityExceeded in a finite instance whose field is full
(40_tap_fsm.md R85, 41_shift_accumulator.md R113, 60_exceptions.md R172, R174). -/
def execDrShiftShDr (f : Frame) (s : State) : Host.Outcome State Fault Refusal :=
  if s.drFull then .next (s.takeFault (.capacityExceeded .shDr))
  else .next ((s.advance .shDr f.c).shiftDr f.t f.h)

/-- A frame taken in UPDATE-DR: DR.UPDATE (40_tap_fsm.md R89, 41_shift_accumulator.md R114). -/
def execDrUpdateUpdDr (f : Frame) (s : State) : Host.Outcome State Fault Refusal :=
  .next ((s.advance .updDr f.c).emitDr f)

end Sys2Proof.Machine
end

