-- ==== Sys2Proof/Machine/IrEntries.lean ====
section
/-! DEFINITION. The meanings of the 15 IRV rows: the entries of the decode table. "The decode names an instruction;
it does not execute one" (42_ir_decode.md, opening words): an entry's whole effect is its name in the `instruction`
field of the `ir` event being emitted. IR.UPDATE runs the entry its value selects
(DESIGN CHOICE, unsafe for a claim about an entry outside a step, log entry 9). -/

namespace Sys2Proof.Machine

/-- The entry of value 0x83 (42_ir_decode.md R141). -/
def execIrAddr16bit (s : State) : Host.Outcome State Fault Refusal :=
  .next (s.writeName .irAddr16bit)

/-- The entry of value 0x84 (42_ir_decode.md R142). -/
def execIrAddrCapture (s : State) : Host.Outcome State Fault Refusal :=
  .next (s.writeName .irAddrCapture)

/-- The entry of value 0x85 (42_ir_decode.md R143). -/
def execIrDataToAddr (s : State) : Host.Outcome State Fault Refusal :=
  .next (s.writeName .irDataToAddr)

/-- The entry of value 0x41 (42_ir_decode.md R144). -/
def execIrData16bit (s : State) : Host.Outcome State Fault Refusal :=
  .next (s.writeName .irData16bit)

/-- The entry of value 0x43 (42_ir_decode.md R145). -/
def execIrDataQuick (s : State) : Host.Outcome State Fault Refusal :=
  .next (s.writeName .irDataQuick)

/-- The entry of value 0xFF (42_ir_decode.md R146). -/
def execIrBypass (s : State) : Host.Outcome State Fault Refusal :=
  .next (s.writeName .irBypass)

/-- The entry of value 0x13 (42_ir_decode.md R147). -/
def execIrCntrlSig16bit (s : State) : Host.Outcome State Fault Refusal :=
  .next (s.writeName .irCntrlSig16bit)

/-- The entry of value 0x14 (42_ir_decode.md R148). -/
def execIrCntrlSigCapture (s : State) : Host.Outcome State Fault Refusal :=
  .next (s.writeName .irCntrlSigCapture)

/-- The entry of value 0x15 (42_ir_decode.md R149). -/
def execIrCntrlSigRelease (s : State) : Host.Outcome State Fault Refusal :=
  .next (s.writeName .irCntrlSigRelease)

/-- The entry of value 0x44 (42_ir_decode.md R150). -/
def execIrDataPsa (s : State) : Host.Outcome State Fault Refusal :=
  .next (s.writeName .irDataPsa)

/-- The entry of value 0x46 (42_ir_decode.md R151). -/
def execIrShiftOutPsa (s : State) : Host.Outcome State Fault Refusal :=
  .next (s.writeName .irShiftOutPsa)

/-- The entry of value 0x22 (42_ir_decode.md R152). -/
def execIrPrepareBlow (s : State) : Host.Outcome State Fault Refusal :=
  .next (s.writeName .irPrepareBlow)

/-- The entry of value 0x24 (42_ir_decode.md R153). -/
def execIrExBlow (s : State) : Host.Outcome State Fault Refusal :=
  .next (s.writeName .irExBlow)

/-- The entry of value 0x61 (42_ir_decode.md R154). -/
def execIrJmbExchange (s : State) : Host.Outcome State Fault Refusal :=
  .next (s.writeName .irJmbExchange)

/-- The fallback, for a value `v` that no entry lists; the name does not depend on it (42_ir_decode.md R155). -/
def execUnknown (_v : Nat) (s : State) : Host.Outcome State Fault Refusal :=
  .next (s.writeName .unknown)

/-- The meaning of the entry that carries a name. -/
def runEntry (v : Nat) (name : InstrName) (s : State) : Host.Outcome State Fault Refusal :=
  match name with
  | .irAddr16bit => execIrAddr16bit s
  | .irAddrCapture => execIrAddrCapture s
  | .irDataToAddr => execIrDataToAddr s
  | .irData16bit => execIrData16bit s
  | .irDataQuick => execIrDataQuick s
  | .irBypass => execIrBypass s
  | .irCntrlSig16bit => execIrCntrlSig16bit s
  | .irCntrlSigCapture => execIrCntrlSigCapture s
  | .irCntrlSigRelease => execIrCntrlSigRelease s
  | .irDataPsa => execIrDataPsa s
  | .irShiftOutPsa => execIrShiftOutPsa s
  | .irPrepareBlow => execIrPrepareBlow s
  | .irExBlow => execIrExBlow s
  | .irJmbExchange => execIrJmbExchange s
  | .unknown => execUnknown v s

end Sys2Proof.Machine
end

