-- ==== Sys2Proof/Machine/IrFrames.lean ====
section
/-! DEFINITION. The meanings of the three FRAME rows with an instruction-register action. -/

namespace Sys2Proof.Machine

/-- A frame taken in CAPTURE-IR: IR.CLEAR, with c = 1 too (40_tap_fsm.md R91, 41_shift_accumulator.md R115; DEDUCED, unsafe
if R98 were meant otherwise, log entry 17). -/
def execIrClearCapIr (f : Frame) (s : State) : Host.Outcome State Fault Refusal :=
  .next (s.advance .capIr f.c).clearIr

/-- A frame taken in SHIFT-IR: IR.SHIFT, or CapacityExceeded in a finite instance whose field is full
(40_tap_fsm.md R92, 41_shift_accumulator.md R116, 60_exceptions.md R172, R174). -/
def execIrShiftShIr (f : Frame) (s : State) : Host.Outcome State Fault Refusal :=
  if s.irFull then .next (s.takeFault (.capacityExceeded .shIr))
  else .next ((s.advance .shIr f.c).shiftIr f.t f.h)

/-- A frame taken in UPDATE-IR: IR.UPDATE emits the event, and the decode entry that the to-target value selects
writes its name into it (40_tap_fsm.md R96, 41_shift_accumulator.md R117, 42_ir_decode.md R140). -/
def execIrUpdateUpdIr (f : Frame) (s : State) : Host.Outcome State Fault Refusal :=
  runEntry (val s.irTt) (decodeName (val s.irTt)) ((s.advance .updIr f.c).emitIr f)

end Sys2Proof.Machine
end

