-- ==== Sys2Proof/Machine/NopFrames.lean ====
section
/-! DEFINITION. The meanings of the ten FRAME rows whose action is NOP: `tap` is written, the frame's data bits are
ignored, no buffer changes and no event is emitted (41_shift_accumulator.md R118). -/

namespace Sys2Proof.Machine

/-- A frame taken in TEST-LOGIC-RESET (40_tap_fsm.md R81). -/
def execNopTlr (f : Frame) (s : State) : Host.Outcome State Fault Refusal :=
  .next (s.advance .tlr f.c)

/-- A frame taken in RUN-TEST/IDLE (40_tap_fsm.md R82). -/
def execNopRti (f : Frame) (s : State) : Host.Outcome State Fault Refusal :=
  .next (s.advance .rti f.c)

/-- A frame taken in SELECT-DR-SCAN (40_tap_fsm.md R83). -/
def execNopSelDr (f : Frame) (s : State) : Host.Outcome State Fault Refusal :=
  .next (s.advance .selDr f.c)

/-- A frame taken in EXIT1-DR (40_tap_fsm.md R86). -/
def execNopEx1Dr (f : Frame) (s : State) : Host.Outcome State Fault Refusal :=
  .next (s.advance .ex1Dr f.c)

/-- A frame taken in PAUSE-DR (40_tap_fsm.md R87). -/
def execNopPauDr (f : Frame) (s : State) : Host.Outcome State Fault Refusal :=
  .next (s.advance .pauDr f.c)

/-- A frame taken in EXIT2-DR (40_tap_fsm.md R88). -/
def execNopEx2Dr (f : Frame) (s : State) : Host.Outcome State Fault Refusal :=
  .next (s.advance .ex2Dr f.c)

/-- A frame taken in SELECT-IR-SCAN (40_tap_fsm.md R90). -/
def execNopSelIr (f : Frame) (s : State) : Host.Outcome State Fault Refusal :=
  .next (s.advance .selIr f.c)

/-- A frame taken in EXIT1-IR (40_tap_fsm.md R93). -/
def execNopEx1Ir (f : Frame) (s : State) : Host.Outcome State Fault Refusal :=
  .next (s.advance .ex1Ir f.c)

/-- A frame taken in PAUSE-IR (40_tap_fsm.md R94). -/
def execNopPauIr (f : Frame) (s : State) : Host.Outcome State Fault Refusal :=
  .next (s.advance .pauIr f.c)

/-- A frame taken in EXIT2-IR (40_tap_fsm.md R95). -/
def execNopEx2Ir (f : Frame) (s : State) : Host.Outcome State Fault Refusal :=
  .next (s.advance .ex2Ir f.c)

end Sys2Proof.Machine
end

