-- ==== Sys2Proof/Machine/Dispatch.lean ====
section
/-! DEFINITION. One arm per instruction. The meaning of a FRAME row reads neither `tap` nor `fault`: the step chooses the
row by the one and checks the other (DESIGN CHOICE, unsafe for a claim about `exec` outside a step, log entry 8). -/

namespace Sys2Proof.Machine

def exec (i : Instr) (s : State) : Host.Outcome State Fault Refusal :=
  match i with
  -- FRAME rows: a frame taken in the named state (40_tap_fsm.md R81 to R96)
  | .nopTlr f => Sys2Proof.Machine.execNopTlr f s
  | .nopRti f => Sys2Proof.Machine.execNopRti f s
  | .nopSelDr f => Sys2Proof.Machine.execNopSelDr f s
  | .drClearCapDr f => Sys2Proof.Machine.execDrClearCapDr f s
  | .drShiftShDr f => Sys2Proof.Machine.execDrShiftShDr f s
  | .nopEx1Dr f => Sys2Proof.Machine.execNopEx1Dr f s
  | .nopPauDr f => Sys2Proof.Machine.execNopPauDr f s
  | .nopEx2Dr f => Sys2Proof.Machine.execNopEx2Dr f s
  | .drUpdateUpdDr f => Sys2Proof.Machine.execDrUpdateUpdDr f s
  | .nopSelIr f => Sys2Proof.Machine.execNopSelIr f s
  | .irClearCapIr f => Sys2Proof.Machine.execIrClearCapIr f s
  | .irShiftShIr f => Sys2Proof.Machine.execIrShiftShIr f s
  | .nopEx1Ir f => Sys2Proof.Machine.execNopEx1Ir f s
  | .nopPauIr f => Sys2Proof.Machine.execNopPauIr f s
  | .nopEx2Ir f => Sys2Proof.Machine.execNopEx2Ir f s
  | .irUpdateUpdIr f => Sys2Proof.Machine.execIrUpdateUpdIr f s
  -- IRV rows: the entries of the decode table (42_ir_decode.md R141 to R155)
  | .irAddr16bit => Sys2Proof.Machine.execIrAddr16bit s
  | .irAddrCapture => Sys2Proof.Machine.execIrAddrCapture s
  | .irDataToAddr => Sys2Proof.Machine.execIrDataToAddr s
  | .irData16bit => Sys2Proof.Machine.execIrData16bit s
  | .irDataQuick => Sys2Proof.Machine.execIrDataQuick s
  | .irBypass => Sys2Proof.Machine.execIrBypass s
  | .irCntrlSig16bit => Sys2Proof.Machine.execIrCntrlSig16bit s
  | .irCntrlSigCapture => Sys2Proof.Machine.execIrCntrlSigCapture s
  | .irCntrlSigRelease => Sys2Proof.Machine.execIrCntrlSigRelease s
  | .irDataPsa => Sys2Proof.Machine.execIrDataPsa s
  | .irShiftOutPsa => Sys2Proof.Machine.execIrShiftOutPsa s
  | .irPrepareBlow => Sys2Proof.Machine.execIrPrepareBlow s
  | .irExBlow => Sys2Proof.Machine.execIrExBlow s
  | .irJmbExchange => Sys2Proof.Machine.execIrJmbExchange s
  | .unknown v => Sys2Proof.Machine.execUnknown v s

end Sys2Proof.Machine
end

