-- ==== Sys2Proof/Machine/Fetch.lean ====
section
/-! DEFINITION. What surrounds an instruction in a step: how a frame and the pre-transition state become the word
that is decoded, what the step does with its event, and how a table word is placed for the next step. -/

namespace Sys2Proof.Machine

/-- The instruction of a frame taken in the current state: `prev` is `tap`, the word is `{prev, c, t, h}`
(41_shift_accumulator.md R110, 30_encoding.md R62). -/
def fetch (f : Frame) (s : State) : Except Reject Instr :=
  decode (frameWord s.tap.toNat f)

/-- The fault of a rejected word: `prev` is outside the 16 states (60_exceptions.md R171). -/
def faultOf : Reject → Fault
  | .stateOutside code => .invalidState code

/-- The state once the next input has been taken; each input is consumed once (10_state.md R32). -/
def State.consume (rest : List Input) (s : State) : State :=
  { s with pending := rest }

/-- The step's event joins the output sequence (20_memory.md R52). -/
def State.deliver (s : State) : State :=
  { s with emitted := s.emitted ++ s.event.toList }

/-- The same on the outcome of an instruction. -/
def deliverOutcome : Host.Outcome State Fault Refusal → Host.Outcome State Fault Refusal
  | .next s => .next s.deliver
  | .fault r => .fault r
  | .refused r => .refused r

/-- The state in which the very next step runs a word: a frame operation word needs its state in `tap` and its frame
presented; an instruction-register value needs an IR.UPDATE frame to come with that value in `ir_tt`. The block must
run, so `fault` is none (DESIGN CHOICE, unsafe for a claim that a run reaches this state, log entry 11). -/
def placeWord (nbits : Nat) (s : State) : CodeWord → State
  | .frame bits tStart tEnd =>
    { s with tap := BitVec.ofNat 4 (bits / 8), fault := none,
             pending := .frame (frameOfWord bits tStart tEnd) :: s.pending }
  | .irv v =>
    { s with tap := TapState.updIr.code, irTt := bitsOf (max nbits (v.log2 + 1)) v, fault := none,
             pending := .frame { tStart := 0, tEnd := 0, c := false, t := false, h := false } :: s.pending }

end Sys2Proof.Machine
end

