-- ==== Sys2Proof/Machine/Cycle.lean ====
section
/-! DEFINITION. What a step does with the result of its fetch. -/

namespace Sys2Proof.Machine

/-- A running block with a fetched word: a rejection raises InvalidState with the offending value, which is checked
before anything else (60_exceptions.md R171, R172); an instruction is run and its event is output (41_shift_accumulator.md
R110). A fetch from the 4-bit `tap` is never rejected; the first arm is what a wider state register meets (DEDUCED, safe,
log entry 7). -/
def runFetched (word : Except Reject Instr) (s : State) : Host.Outcome State Fault Refusal :=
  match word with
  | .error r => .next (s.takeFault (faultOf r))
  | .ok i => deliverOutcome (exec i s)

end Sys2Proof.Machine
end

