-- ==== Sys2Proof/Machine/Step.lean ====
section
/-! DEFINITION. One step of the block (41_shift_accumulator.md R110). -/

namespace Sys2Proof.Machine

/-- One step. Without an input nothing happens (60_exceptions.md R179). A reset acts between frames
(70_reset_and_hazards.md R190). A frame that comes while the block is halted causes no step (60_exceptions.md R173);
otherwise the frame's instruction is decoded and run, and its event is output (41_shift_accumulator.md R110).
DEDUCED: the idle step (safe, log entry 4) and the frames a halted block lets pass (unsafe for a claim about those frames,
log entry 6). -/
def step (s : State) : Host.Outcome State Fault Refusal :=
  match s.pending with
  | [] => .next s.noEvent
  | .rst :: rest => .next (s.consume rest).applyReset
  | .frame f :: rest =>
    match s.fault with
    | some _ => .next (s.consume rest).noEvent
    | none => runFetched (fetch f s) (s.consume rest)

/-- The state whose very next step runs the given table word. -/
def State.withFetchWord (s : State) (nbits w : Nat) : State :=
  placeWord nbits s (tableWord nbits w)

end Sys2Proof.Machine
end

