-- ==== Sys2Proof/Machine/Flags.lean ====
section
/-! DEFINITION. The block has no flags (10_state.md R34). Its only status is `fault`; this file gives the ports at
which the outside reads it and the event output (30_encoding.md R74), and the text view of an event (R65, R66). -/

namespace Sys2Proof.Machine

/-- The 2-bit code of the `fault` element; code 3 is never produced (60_exceptions.md R170). -/
def faultCode : Option Fault → BitVec 2
  | none => 0
  | some (.invalidState _) => 1
  | some (.capacityExceeded _) => 2

/-- The 1-bit code of an event's kind (30_encoding.md R65, decision D8). -/
def regKindCode : RegKind → BitVec 1
  | .dr => 0
  | .ir => 1

/-- Port `fault` (30_encoding.md R74). -/
def State.faultPort (s : State) : BitVec 2 :=
  faultCode s.fault

/-- Port `ev_valid` (30_encoding.md R74). -/
def State.evValid (s : State) : BitVec 1 :=
  if s.event.isSome then 1 else 0

/-- Port `ev_kind`, none while `ev_valid` is 0: the `ev_*` outputs are valid only then (30_encoding.md R74). -/
def State.evKind (s : State) : Option (BitVec 1) :=
  s.event.map fun e => regKindCode e.kind

/-- Port `ev_to_target`, none while `ev_valid` is 0 (30_encoding.md R74). -/
def State.evToTarget (s : State) : Option Nat :=
  s.event.map EventOf.toTarget

/-- Port `ev_to_host`, none while `ev_valid` is 0 (30_encoding.md R74). -/
def State.evToHost (s : State) : Option Nat :=
  s.event.map EventOf.toHost

/-- Port `ev_t_start`, none while `ev_valid` is 0 (30_encoding.md R74). -/
def State.evTStart (s : State) : Option NatTime :=
  s.event.map EventOf.tStart

/-- Port `ev_t_end`, none while `ev_valid` is 0 (30_encoding.md R74). -/
def State.evTEnd (s : State) : Option NatTime :=
  s.event.map EventOf.tEnd

/-- Port `ev_instr`, none while `ev_valid` is 0: the name's code on an `ir` event and 0 on a `dr` event
(30_encoding.md R74; DEDUCED, unsafe for an instance that drives another value on a `dr` event, log entry 12). -/
def State.evInstr (s : State) : Option (BitVec 4) :=
  s.event.map fun e => (e.instruction.map InstrName.code).getD 0

/-- The name of an instruction as the source writes it (42_ir_decode.md R140). -/
def nameText : InstrName → String
  | .irAddr16bit => "IR_ADDR_16BIT"
  | .irAddrCapture => "IR_ADDR_CAPTURE"
  | .irDataToAddr => "IR_DATA_TO_ADDR"
  | .irData16bit => "IR_DATA_16BIT"
  | .irDataQuick => "IR_DATA_QUICK"
  | .irBypass => "IR_BYPASS"
  | .irCntrlSig16bit => "IR_CNTRL_SIG_16BIT"
  | .irCntrlSigCapture => "IR_CNTRL_SIG_CAPTURE"
  | .irCntrlSigRelease => "IR_CNTRL_SIG_RELEASE"
  | .irDataPsa => "IR_DATA_PSA"
  | .irShiftOutPsa => "IR_SHIFT_OUT_PSA"
  | .irPrepareBlow => "IR_PREPARE_BLOW"
  | .irExBlow => "IR_EX_BLOW"
  | .irJmbExchange => "IR_JMB_EXCHANGE"
  | .unknown => "UNKNOWN"

/-- The source's template of an event, `update-dr` or `update-ir` with its fields (30_encoding.md R65), under a
rendering `hexFmt` of its values, which the spec leaves OPEN (R66, decision D6; DESIGN CHOICE, safe, log
entry 13). -/
def eventText (hexFmt : Nat → String) (e : Event) : String × List (String × String) :=
  match e.kind with
  | .dr => ("update-dr", [("reg", "dr"), ("to_target", hexFmt e.toTarget), ("to_host", hexFmt e.toHost)])
  | .ir => ("update-ir", [("reg", "ir"), ("to_target", hexFmt e.toTarget), ("to_host", hexFmt e.toHost)]
      ++ (e.instruction.map fun n => ("instruction", nameText n)).toList)

end Sys2Proof.Machine
end

