-- ==== Sys2Proof/Machine/Macros.lean ====
section
/-! DEFINITION. The spec's notation for frame streams and its three macros (30_encoding.md R71, R72). -/

namespace Sys2Proof.Machine

/-- A frame without its interval, written `cth` (30_encoding.md R71). -/
abbrev Cth := Bit × Bit × Bit

/-- The frames of a stream whose first has the interval `[k, k + 1)`, each next one a unit later
(30_encoding.md R71: frame `fk` has `t_start = k - 1` and `t_end = k`). -/
def stampFrom : Nat → List Cth → List Frame
  | _, [] => []
  | k, (c, t, h) :: rest => { tStart := k, tEnd := k + 1, c := c, t := t, h := h } :: stampFrom (k + 1) rest

/-- The frame `1xx`, its ignored bits 0. -/
def one : Cth := (true, false, false)

/-- The frame `0xx`, its ignored bits 0. -/
def zero : Cth := (false, false, false)

/-- `GOTO_TLR` (30_encoding.md R72). -/
def gotoTlr : List Cth := [one, one, one, one, one]

/-- The shift frames of a scan: `c = 0` but on the last (30_encoding.md R72). -/
def shiftFrames : List (Bit × Bit) → List Cth
  | [] => []
  | [(x, y)] => [(true, x, y)]
  | (x, y) :: b :: rest => (false, x, y) :: shiftFrames (b :: rest)

/-- `SCAN_DR`, the pairs being the to-target and to-host bits in shift order (30_encoding.md R72). -/
def scanDr : List (Bit × Bit) → List Cth
  | [] => [one, zero, one, one, zero]
  | b :: bs => [one, zero, zero] ++ shiftFrames (b :: bs) ++ [one, zero]

/-- `SCAN_IR`, which has at least one bit (30_encoding.md R72). -/
def scanIr (b : Bit × Bit) (bs : List (Bit × Bit)) : List Cth :=
  [one, one, zero, zero] ++ shiftFrames (b :: bs) ++ [one, zero]

end Sys2Proof.Machine
end

