-- ==== Sys2Proof/Machine/TimeType.lean ====
section
/-! DEFINITION. The block over any time type. `Time` is a parameter of the spec (00_scope.md R8, decision D11), and here
an argument: no element of the block holds a tag (10_state.md R20), so one step takes a frame with tags of any type and
gives an event with tags of that type. The block runs the step of the host's instance on the frame with two tokens for
its tags, and what comes out in place of a token is the frame's own tag (60_exceptions.md R181: a tag is copied, never
inspected). -/

namespace Sys2Proof

/-- A frame with its tags renamed into another time type. -/
def FrameOf.retag {Time Time' : Type} (g : Time → Time') (f : FrameOf Time) : FrameOf Time' :=
  { tStart := g f.tStart, tEnd := g f.tEnd, c := f.c, t := f.t, h := f.h }

/-- An input with its tags renamed. -/
def InputOf.retag {Time Time' : Type} (g : Time → Time') : InputOf Time → InputOf Time'
  | .rst => .rst
  | .frame f => .frame (f.retag g)

/-- The two tokens that stand for the tags of a frame: 0 for its start, 1 for its end. -/
def FrameOf.tokens {Time : Type} (f : FrameOf Time) : Frame :=
  { tStart := 0, tEnd := 1, c := f.c, t := f.t, h := f.h }

/-- The tag that a token stands for. -/
def FrameOf.tagOf {Time : Type} (f : FrameOf Time) (token : NatTime) : Time :=
  match token with
  | 0 => f.tStart
  | _ + 1 => f.tEnd

end Sys2Proof

namespace Sys2Proof.Machine

/-- An event with its tags renamed. -/
def EventOf.retag {Time Time' : Type} (g : Time → Time') (e : EventOf Time) : EventOf Time' :=
  { tStart := g e.tStart, tEnd := g e.tEnd, kind := e.kind, toTarget := e.toTarget, toHost := e.toHost,
    instruction := e.instruction }

/-- The elements of the block (10_state.md R20) and its instance: no tag is among them. -/
structure Block where
  tap : StateCode
  drTt : Bits
  drTh : Bits
  irTt : Bits
  irTh : Bits
  fault : Option Fault
  cfg : Config
  deriving DecidableEq, Repr

/-- The block in a state. -/
def State.block (s : State) : Block :=
  { tap := s.tap, drTt := s.drTt, drTh := s.drTh, irTt := s.irTt, irTh := s.irTh, fault := s.fault, cfg := s.cfg }

/-- The state of a block with inputs presented to it and nothing emitted. -/
def Block.facing (b : Block) (inputs : List Input) : State :=
  { tap := b.tap, drTt := b.drTt, drTh := b.drTh, irTt := b.irTt, irTh := b.irTh, fault := b.fault, cfg := b.cfg,
    event := none, pending := inputs, emitted := [] }

/-- The input with its frame's tokens for the tags. -/
def inputTokens {Time : Type} : InputOf Time → Input
  | .rst => .rst
  | .frame f => .frame f.tokens

/-- The step's event with the frame's own tags for the tokens; a reset emits none. -/
def eventTags {Time : Type} (i : InputOf Time) (e : Option Event) : Option (EventOf Time) :=
  match i with
  | .rst => none
  | .frame f => e.map (EventOf.retag f.tagOf)

/-- One step of the block over a time type, on one input: the block after it, and its event, if any. -/
def stepOver (Time : Type) (i : InputOf Time) (b : Block) :
    Host.Outcome (Block × Option (EventOf Time)) Fault Refusal :=
  match step (b.facing [inputTokens i]) with
  | .next t => .next (t.block, eventTags i t.event)
  | .fault r => .fault r
  | .refused r => .refused r

/-- The block over a time type on a stream of inputs: the block after it, and the events in order (20_memory.md R52). -/
def runOver (Time : Type) : List (InputOf Time) → Block → Host.Outcome (Block × List (EventOf Time)) Fault Refusal
  | [], b => .next (b, [])
  | i :: rest, b =>
    match stepOver Time i b with
    | .fault r => .fault r
    | .refused r => .refused r
    | .next (b', e) =>
      match runOver Time rest b' with
      | .next (b'', es) => .next (b'', e.toList ++ es)
      | .fault r => .fault r
      | .refused r => .refused r

end Sys2Proof.Machine
end

