-- ==== Sys2Proof/WellFormed.lean ====
section
/-! DEFINITION. Which instructions are well formed. Every frame is a legal operand in every state, and every
instruction-register value decodes (30_encoding.md R64, 42_ir_decode.md R155); so the one check is that the
fallback entry carries a value that no entry of the table lists. -/

namespace Sys2Proof

/-- No entry of the decode table lists the value (42_ir_decode.md R155). -/
def unlisted (v : Nat) : Bool :=
  irTable.all fun row => row.1 != v

/-- The instruction is well formed. -/
def Instr.wf : Instr → Bool
  | .unknown v => unlisted v
  | .nopTlr _ | .nopRti _ | .nopSelDr _ | .drClearCapDr _ | .drShiftShDr _ | .nopEx1Dr _ | .nopPauDr _
  | .nopEx2Dr _ | .drUpdateUpdDr _ | .nopSelIr _ | .irClearCapIr _ | .irShiftShIr _ | .nopEx1Ir _
  | .nopPauIr _ | .nopEx2Ir _ | .irUpdateUpdIr _ => true
  | .irAddr16bit | .irAddrCapture | .irDataToAddr | .irData16bit | .irDataQuick | .irBypass
  | .irCntrlSig16bit | .irCntrlSigCapture | .irCntrlSigRelease | .irDataPsa | .irShiftOutPsa
  | .irPrepareBlow | .irExBlow | .irJmbExchange => true

end Sys2Proof
end

