-- ==== Sys2Proof/Safety.lean ====
section
/-! DEFINITION. The terms in which claims about the block are stated: halted and normal states, the invariants, the
positional sums, the walk of the TAP states, the renaming of time tags, and the shape of a state rule. -/

namespace Sys2Proof.Machine

/-- The block is halted by a fault (60_exceptions.md R173). -/
def State.halted (s : State) : Bool :=
  s.fault.isSome

/-- A normal end of a stream: every input is taken and the block is not halted; a halted block is a fault state, never
a normal end (60_exceptions.md R173). -/
def State.normalEnd (s : State) : Bool :=
  s.pending.isEmpty && !s.halted

/-- The state with frames presented before its other inputs. -/
def State.present (fs : List Frame) (s : State) : State :=
  { s with pending := fs.map InputOf.frame ++ s.pending }

/-- `k` steps of the block as the host runs it. -/
def runSteps (k : Nat) (s : State) : Host.Outcome State Fault Refusal :=
  Host.Core.run Sys2Proof.core k s

/-- Both fields of each register have equal lengths (10_state.md R36). -/
def State.evenFields (s : State) : Prop :=
  s.drTt.length = s.drTh.length ∧ s.irTt.length = s.irTh.length

/-- In a finite instance no field holds more than `BUF_MAX` bits (10_state.md R28). -/
def State.withinCapacity (s : State) : Prop :=
  ∀ n, s.cfg.bufMax = some n →
    s.drTt.length ≤ n ∧ s.drTh.length ≤ n ∧ s.irTt.length ≤ n ∧ s.irTh.length ≤ n

/-- A field is not at `BUF_MAX` bits; always so when there is no bound (41_shift_accumulator.md R113, R116). -/
def hasRoom (bufMax : Option Nat) (field : Bits) : Prop :=
  bufMax ≠ some field.length

/-- The sum of `x_i * 2^(n-1-i)`: the first bit is the most significant (30_encoding.md R69). -/
def msbFirstSum (xs : Bits) : Nat :=
  ∑ i ∈ Finset.range xs.length, (xs.getD i false).toNat * 2 ^ (xs.length - 1 - i)

/-- The sum of `x_i * 2^i`: the first bit is the least significant (30_encoding.md R69). -/
def lsbFirstSum (xs : Bits) : Nat :=
  ∑ i ∈ Finset.range xs.length, (xs.getD i false).toNat * 2 ^ i

/-- The state after a sequence of control bits (40_tap_fsm.md R80). -/
def walk (prev : TapState) (cs : List Bit) : TapState :=
  cs.foldl transition prev

/-- The pre-transition states of a sequence of frames (41_shift_accumulator.md R110). -/
def preStates : TapState → List Frame → List TapState
  | _, [] => []
  | prev, f :: fs => prev :: preStates (transition prev f.c) fs

/-- The frames of a sequence that are taken in a given state. -/
def framesIn (q prev : TapState) (fs : List Frame) : List Frame :=
  (((preStates prev fs).zip fs).filter fun x => x.1 = q).map Prod.snd

/-- The two states whose frames emit (41_shift_accumulator.md R120). -/
def isUpdate : TapState → Bool
  | .updDr | .updIr => true
  | _ => false

/-- The states in which the DR fields can still reach an event (40_tap_fsm.md R99: the DR column without CAP-DR,
whose frame clears them). -/
def drLive : TapState → Bool
  | .shDr | .ex1Dr | .pauDr | .ex2Dr | .updDr => true
  | _ => false

/-- The states in which the IR fields can still reach an event. -/
def irLive : TapState → Bool
  | .shIr | .ex1Ir | .pauIr | .ex2Ir | .updIr => true
  | _ => false

/-- The six states of the DR column (40_tap_fsm.md R99). -/
def drColumn : TapState → Bool
  | .capDr | .shDr | .ex1Dr | .pauDr | .ex2Dr | .updDr => true
  | _ => false

/-- The six states of the IR column (40_tap_fsm.md R99). -/
def irColumn : TapState → Bool
  | .capIr | .shIr | .ex1Ir | .pauIr | .ex2Ir | .updIr => true
  | _ => false

/-- The IR column's counterpart of a state of the DR column (40_tap_fsm.md R100). -/
def mirror : TapState → TapState
  | .capDr => .capIr
  | .shDr => .shIr
  | .ex1Dr => .ex1Ir
  | .pauDr => .pauIr
  | .ex2Dr => .ex2Ir
  | .updDr => .updIr
  | p => p

/-- A state with every time tag in it renamed; a block holds none but those of its event. -/
def State.retime (g : NatTime → NatTime) (s : State) : State :=
  { s with event := s.event.map (EventOf.retag g),
           pending := s.pending.map (InputOf.retag g),
           emitted := s.emitted.map (EventOf.retag g) }

/-- What a rule of 40_tap_fsm.md says of its state: the row's instruction, in every state, has the effect `post` on
the block; and a running block whose `tap` holds the state's code takes a frame with that effect, the frame consumed
and the event, if any, output. -/
def frameRule (code : StateCode) (i : Frame → Instr) (ok : State → Prop) (post : Frame → State → State) : Prop :=
  (∀ f s, ok s → exec (i f) s = .next (post f s)) ∧
  (∀ f rest s, ok s → s.fault = none → s.tap = code → s.pending = InputOf.frame f :: rest →
    step s = .next { post f s with pending := rest, emitted := s.emitted ++ (post f s).event.toList })

/-- A state rule whose action is NOP: only `tap` is written, with one code for `c = 1` and one for `c = 0`, and there
is no event (41_shift_accumulator.md R118). -/
def nopRule (code : StateCode) (i : Frame → Instr) (ifOne ifZero : StateCode) : Prop :=
  frameRule code i (fun _ => True) fun f s => { s with tap := if f.c then ifOne else ifZero, event := none }

/-- What a rule of 42_ir_decode.md says of its entry: the key, the field that holds it in 8 bits (front first), the
output code, the instruction, and the name that the same bits shifted in the opposite order decode to. Longer fields
whose later bits are 0 still match, a later 1 does not, and IR.UPDATE puts the name into the event. -/
def entryRule (key : Nat) (field : Bits) (code : BitVec 4) (name : InstrName) (i : Instr)
    (mirrored : InstrName) : Prop :=
  val field = key ∧ decodeName key = name ∧ name.code = code ∧ decode (.irv key) = .ok i ∧
  decodeName (val field.reverse) = mirrored ∧
  (∀ n, decodeName (val (List.replicate n false ++ field)) = name) ∧
  (∀ later, true ∈ later → 0x100 ≤ val (later ++ field) ∧ decodeName (val (later ++ field)) = .unknown) ∧
  (∀ f s, val s.irTt = key → ∃ t e, exec (.irUpdateUpdIr f) s = .next t ∧ t.event = some e ∧
    e.kind = .ir ∧ e.toTarget = key ∧ e.instruction = some name)

/-- What an entry's instruction does in every state: the `ir` event being emitted takes the name, and nothing else
changes (42_ir_decode.md, opening words). -/
def namingRule (i : Instr) (name : InstrName) : Prop :=
  ∀ s, exec i s = .next { s with event := s.event.map fun e =>
    if e.kind = .ir then { e with instruction := some name } else e }

end Sys2Proof.Machine
end

