-- ==== Sys2Proof/Certificates/Slice0/Obligations.lean ====
section
/-! DEFINITION. The statements about the block, for the provers. -/

open Sys2Proof Sys2Proof.Machine

/-- For each of the ten states whose action is NOP, exec of its instruction answers next in every state: tap takes
the code of the state the table gives for c = 1 or c = 0, there is no event, and every other element is unchanged
(the whole frame). A running block whose tap holds the state's code takes a frame with exactly that effect. (R81,
R82, R83, R86, R87, R88, R90, R93, R94, R95, R118) -/
def Obligations.NopFramesOnlyMoveTheTap : Prop :=
  -- TEST-LOGIC-RESET, RUN-TEST/IDLE, SELECT-DR-SCAN
  nopRule 0 .nopTlr 0 1 ∧ nopRule 1 .nopRti 2 1 ∧ nopRule 2 .nopSelDr 9 3 ∧
  -- EXIT1-DR, PAUSE-DR, EXIT2-DR
  nopRule 5 .nopEx1Dr 8 6 ∧ nopRule 6 .nopPauDr 7 6 ∧ nopRule 7 .nopEx2Dr 8 4 ∧
  -- SELECT-IR-SCAN, EXIT1-IR, PAUSE-IR, EXIT2-IR
  nopRule 9 .nopSelIr 0 10 ∧ nopRule 12 .nopEx1Ir 15 13 ∧ nopRule 13 .nopPauIr 14 13 ∧
  nopRule 14 .nopEx2Ir 15 11

/-- exec of DR.CLEAR@CAP-DR answers next in every state: both DR fields are empty, tap is EXIT1-DR or SHIFT-DR by c,
no event, all else unchanged; and a running block in CAPTURE-DR takes a frame with that effect. (R84, R112) -/
def Obligations.CaptureDrClearsBothDrFields : Prop :=
  frameRule 3 .drClearCapDr (fun _ => True) fun f s =>
    { s with tap := if f.c then 5 else 4, drTt := [], drTh := [], event := none }

/-- Where both DR fields have room, exec of DR.SHIFT@SH-DR answers next: t at the end of dr_tt, h at the front of
dr_th, tap by c, no event, all else unchanged, and a running block takes the frame so. Where a field holds BUF_MAX
bits the same instruction takes CapacityExceeded and writes nothing else. In pair form the append gives (n + 1, 2 v
+ t) and the prepend (m + 1, u + h 2^m). (R85, R113) -/
def Obligations.ShiftDrInsertsOneBitInEachDrField : Prop :=
  frameRule 4 .drShiftShDr (fun s => hasRoom s.cfg.bufMax s.drTt ∧ hasRoom s.cfg.bufMax s.drTh) (fun f s =>
    { s with tap := if f.c then 5 else 4, drTt := s.drTt ++ [f.t], drTh := f.h :: s.drTh, event := none }) ∧
  frameRule 4 .drShiftShDr (fun s => ¬(hasRoom s.cfg.bufMax s.drTt ∧ hasRoom s.cfg.bufMax s.drTh)) (fun _ s =>
    { s with fault := some (.capacityExceeded .shDr), event := none }) ∧
  ∀ (tt th : Bits) (t h : Bit),
    pairOf (tt ++ [t]) = (tt.length + 1, 2 * val tt + t.toNat) ∧
    pairOf (h :: th) = (th.length + 1, val th + h.toNat * 2 ^ th.length)

/-- exec of DR.UPDATE@UPD-DR answers next in every state: the event is a dr event with the frame's interval,
val(dr_tt) and val(dr_th) and no instruction; tap is SELECT-DR-SCAN or RUN-TEST/IDLE by c; every buffer and all else
is unchanged; a running block outputs that event. (R89, R114) -/
def Obligations.UpdateDrEmitsTheDrEvent : Prop :=
  frameRule 8 .drUpdateUpdDr (fun _ => True) fun f s =>
    { s with tap := if f.c then 2 else 1,
             event := some { tStart := f.tStart, tEnd := f.tEnd, kind := .dr,
                             toTarget := val s.drTt, toHost := val s.drTh, instruction := none } }

/-- exec of IR.CLEAR@CAP-IR answers next in every state: both IR fields are empty, tap is EXIT1-IR or SHIFT-IR by c,
no event, all else unchanged; and a running block in CAPTURE-IR takes a frame with that effect. With c = 1 an
UPDATE-IR frame on the empty field gives 0, which decodes to UNKNOWN. (R91, R115) -/
def Obligations.CaptureIrClearsBothIrFields : Prop :=
  frameRule 10 .irClearCapIr (fun _ => True) (fun f s =>
    { s with tap := if f.c then 12 else 11, irTt := [], irTh := [], event := none }) ∧
  decodeName (val []) = .unknown

/-- Where both IR fields have room, exec of IR.SHIFT@SH-IR answers next: t at the front of ir_tt, h at the end of
ir_th, tap by c, no event, all else unchanged, and a running block takes the frame so. Where a field holds BUF_MAX
bits the same instruction takes CapacityExceeded and writes nothing else. In pair form the prepend gives (n + 1, v +
t 2^n) and the append (m + 1, 2 u + h); later 0 bits keep the value, a later 1 beyond 8 bits makes it at least
0x100. (R92, R116) -/
def Obligations.ShiftIrInsertsOneBitInEachIrField : Prop :=
  frameRule 11 .irShiftShIr (fun s => hasRoom s.cfg.bufMax s.irTt ∧ hasRoom s.cfg.bufMax s.irTh) (fun f s =>
    { s with tap := if f.c then 12 else 11, irTt := f.t :: s.irTt, irTh := s.irTh ++ [f.h], event := none }) ∧
  frameRule 11 .irShiftShIr (fun s => ¬(hasRoom s.cfg.bufMax s.irTt ∧ hasRoom s.cfg.bufMax s.irTh)) (fun _ s =>
    { s with fault := some (.capacityExceeded .shIr), event := none }) ∧
  (∀ (tt th : Bits) (t h : Bit),
    pairOf (t :: tt) = (tt.length + 1, val tt + t.toNat * 2 ^ tt.length) ∧
    pairOf (th ++ [h]) = (th.length + 1, 2 * val th + h.toNat)) ∧
  ∀ tt : Bits, val (false :: tt) = val tt ∧ (8 ≤ tt.length → 0x100 ≤ val (true :: tt))

/-- exec of IR.UPDATE@UPD-IR answers next in every state: the event is an ir event with the frame's interval,
val(ir_tt), val(ir_th) and the name Decode(val(ir_tt)); tap is SELECT-DR-SCAN or RUN-TEST/IDLE by c; every buffer
and all else is unchanged; a running block outputs that event. The empty field decodes to UNKNOWN. (R96, R117) -/
def Obligations.UpdateIrEmitsTheDecodedIrEvent : Prop :=
  frameRule 15 .irUpdateUpdIr (fun _ => True) (fun f s =>
    { s with tap := if f.c then 2 else 1,
             event := some { tStart := f.tStart, tEnd := f.tEnd, kind := .ir,
                             toTarget := val s.irTt, toHost := val s.irTh,
                             instruction := some (decodeName (val s.irTt)) } }) ∧
  decodeName (val []) = .unknown

/-- exec of each IRV row answers next in every state: the ir event in the event output takes the row's name, a dr
event and an absent event stay as they are, and every other element is unchanged. That an entry acts on the event
output is the model's form (log entry 9). (42_ir_decode.md, opening words, R117, R157, log entry 9) -/
def Obligations.EntriesWriteOnlyTheirName : Prop :=
  namingRule .irAddr16bit .irAddr16bit ∧
  namingRule .irAddrCapture .irAddrCapture ∧
  namingRule .irDataToAddr .irDataToAddr ∧
  namingRule .irData16bit .irData16bit ∧
  namingRule .irDataQuick .irDataQuick ∧
  namingRule .irBypass .irBypass ∧
  namingRule .irCntrlSig16bit .irCntrlSig16bit ∧
  namingRule .irCntrlSigCapture .irCntrlSigCapture ∧
  namingRule .irCntrlSigRelease .irCntrlSigRelease ∧
  namingRule .irDataPsa .irDataPsa ∧
  namingRule .irShiftOutPsa .irShiftOutPsa ∧
  namingRule .irPrepareBlow .irPrepareBlow ∧
  namingRule .irExBlow .irExBlow ∧
  namingRule .irJmbExchange .irJmbExchange ∧
  ∀ v, namingRule (.unknown v) .unknown

/-- For each entry: the 8-bit field of its worked example has the key as value, the key decodes to the entry's name,
output code and instruction, the same bits in the opposite order decode as the rule says, any number of later 0 bits
keeps the match, any later 1 makes the value at least 0x100 and UNKNOWN, and exec of IR.UPDATE with that value
answers next with the name in the ir event. (R141, R142, R143, R144, R145, R146, R147) -/
def Obligations.DecodeTableEntriesLeftColumn : Prop :=
  entryRule 0x83 [true, false, false, false, false, false, true, true] 0 .irAddr16bit .irAddr16bit .unknown ∧
  entryRule 0x84 [true, false, false, false, false, true, false, false] 1 .irAddrCapture .irAddrCapture .unknown ∧
  entryRule 0x85 [true, false, false, false, false, true, false, true] 2 .irDataToAddr .irDataToAddr .unknown ∧
  entryRule 0x41 [false, true, false, false, false, false, false, true] 3 .irData16bit .irData16bit .unknown ∧
  entryRule 0x43 [false, true, false, false, false, false, true, true] 4 .irDataQuick .irDataQuick .unknown ∧
  entryRule 0xFF [true, true, true, true, true, true, true, true] 5 .irBypass .irBypass .irBypass ∧
  entryRule 0x13 [false, false, false, true, false, false, true, true] 6 .irCntrlSig16bit .irCntrlSig16bit .unknown

/-- The same as for the first seven entries, for the other seven. The mirrored keys of IR_DATA_PSA and
IR_PREPARE_BLOW are each other, and the key of IR_EX_BLOW is a palindrome. (R148, R149, R150, R151, R152, R153,
R154) -/
def Obligations.DecodeTableEntriesRightColumn : Prop :=
  entryRule 0x14 [false, false, false, true, false, true, false, false] 7 .irCntrlSigCapture .irCntrlSigCapture .unknown ∧
  entryRule 0x15 [false, false, false, true, false, true, false, true] 8 .irCntrlSigRelease .irCntrlSigRelease .unknown ∧
  entryRule 0x44 [false, true, false, false, false, true, false, false] 9 .irDataPsa .irDataPsa .irPrepareBlow ∧
  entryRule 0x46 [false, true, false, false, false, true, true, false] 10 .irShiftOutPsa .irShiftOutPsa .unknown ∧
  entryRule 0x22 [false, false, true, false, false, false, true, false] 11 .irPrepareBlow .irPrepareBlow .irDataPsa ∧
  entryRule 0x24 [false, false, true, false, false, true, false, false] 12 .irExBlow .irExBlow .irExBlow ∧
  entryRule 0x61 [false, true, true, false, false, false, false, true] 13 .irJmbExchange .irJmbExchange .unknown

/-- A value decodes to UNKNOWN exactly when it is none of the 14 keys; so do 0, every value from 0x100 on, 0xC1, and
242 of the 256 8-bit values; the output code is 14; the decoder gives the fallback row with the value; and IR.UPDATE
on such a value answers next, emits the event named UNKNOWN and raises no fault. (R155, R175) -/
def Obligations.UnlistedValuesDecodeToUnknown : Prop :=
  (∀ v, decodeName v = .unknown ↔
    v ∉ [0x83, 0x84, 0x85, 0x41, 0x43, 0xFF, 0x13, 0x14, 0x15, 0x44, 0x46, 0x22, 0x24, 0x61]) ∧
  decodeName 0 = .unknown ∧ (∀ v, 0x100 ≤ v → decodeName v = .unknown) ∧
  decodeName (val [true, true, false, false, false, false, false, true]) = .unknown ∧
  ((List.range 256).filter fun v => decodeName v = .unknown).length = 242 ∧
  InstrName.unknown.code = 14 ∧
  (∀ v, decodeName v = .unknown → decode (.irv v) = .ok (.unknown v)) ∧
  ∀ f s, decodeName (val s.irTt) = .unknown →
    exec (.irUpdateUpdIr f) s = .next
      { s with tap := if f.c then 2 else 1,
               event := some { tStart := f.tStart, tEnd := f.tEnd, kind := .ir, toTarget := val s.irTt,
                               toHost := val s.irTh, instruction := some .unknown } }

/-- The decode table has 14 rows with distinct keys; every row's key decodes to the row's name, whatever the order
of the rows; a value that is no row's key decodes to UNKNOWN, 0x00 and 0xAB among them. (R158) -/
def Obligations.DecodeTableKeysAreDistinct : Prop :=
  irTable.length = 14 ∧ (irTable.map Prod.fst).Nodup ∧
  (∀ row ∈ irTable, decodeName row.1 = row.2) ∧
  (∀ v, (∀ row ∈ irTable, row.1 ≠ v) → decodeName v = .unknown) ∧
  decodeName 0x00 = .unknown ∧ decodeName 0xAB = .unknown

/-- Words written out bit by bit: a NOP, the two shifts with data bits, the two clears, the two updates, two IR values.
(R62, R63, R67) -/
def Obligations.WrittenOutWordsDecode : Prop :=
  decode (.frame 0b0000100 0 1) = .ok (.nopTlr ⟨0, 1, true, false, false⟩) ∧
  decode (.frame 0b0100101 4 5) = .ok (.drShiftShDr ⟨4, 5, true, false, true⟩) ∧
  decode (.frame 0b0011011 2 3) = .ok (.drClearCapDr ⟨2, 3, false, true, true⟩) ∧
  decode (.frame 0b1010101 3 4) = .ok (.irClearCapIr ⟨3, 4, true, false, true⟩) ∧
  decode (.frame 0b1000100 6 7) = .ok (.drUpdateUpdDr ⟨6, 7, true, false, false⟩) ∧
  decode (.frame 0b1011010 4 5) = .ok (.irShiftShIr ⟨4, 5, false, true, false⟩) ∧
  decode (.frame 0b1111000 13 14) = .ok (.irUpdateUpdIr ⟨13, 14, false, false, false⟩) ∧
  decode (.irv 0x83) = .ok .irAddr16bit ∧ decode (.irv 0xC1) = .ok (.unknown 0xC1)

/-- For each of the 16 rows, the word whose bits 6 to 3 are the row's code and whose bits 2, 1, 0 are c, t and h
decodes to the row's instruction with that frame. Every word below 128 decodes. A word whose state field is 16 or
more, which a 4-bit register cannot hold, is rejected with that value. (R62, R64) -/
def Obligations.FrameWordsDecodeByTheirStateField : Prop :=
  (∀ row ∈ ([(0, .nopTlr), (1, .nopRti), (2, .nopSelDr), (3, .drClearCapDr), (4, .drShiftShDr),
      (5, .nopEx1Dr), (6, .nopPauDr), (7, .nopEx2Dr), (8, .drUpdateUpdDr), (9, .nopSelIr), (10, .irClearCapIr),
      (11, .irShiftShIr), (12, .nopEx1Ir), (13, .nopPauIr), (14, .nopEx2Ir),
      (15, .irUpdateUpdIr)] : List (Nat × (Frame → Instr))),
    ∀ f : Frame, decode (.frame (row.1 * 8 + f.c.toNat * 4 + f.t.toNat * 2 + f.h.toNat) f.tStart f.tEnd) =
      .ok (row.2 f)) ∧
  (∀ w a b, w < 128 → ∃ i, decode (.frame w a b) = .ok i) ∧
  ∀ w a b, 128 ≤ w → decode (.frame w a b) = .error (.stateOutside (w / 8))

/-- For every well-formed instruction of both formats, with every operand at every value, decode of encode is the
instruction. (R62, R63, R67, R68, R155) -/
def Obligations.DecodeOfEncodeIsTheInstruction : Prop :=
  ∀ i : Instr, i.wf = true → decode (encode i) = .ok i

/-- For every word of both formats, if it decodes to an instruction then that instruction is well formed and encodes
to the word: no two words share an instruction and no bit is dropped. (R62, R64, R67, R155) -/
def Obligations.EncodeOfDecodeIsTheWord : Prop :=
  ∀ (w : CodeWord) (i : Instr), decode w = .ok i → encode i = w ∧ i.wf = true

/-- The states in the order the source lists them have the codes 0 to 15; every 4-bit value is the code of a state,
and reading a code back gives the state. (R22) -/
def Obligations.StateCodesFillTheFourBitRegister : Prop :=
  [TapState.tlr, .rti, .selDr, .capDr, .shDr, .ex1Dr, .pauDr, .ex2Dr, .updDr, .selIr, .capIr, .shIr, .ex1Ir,
    .pauIr, .ex2Ir, .updIr].map TapState.code = [0, 1, 2, 3, 4, 5, 6, 7, 8, 9, 10, 11, 12, 13, 14, 15] ∧
  (∀ x : StateCode, ∃ p : TapState, p.code = x) ∧
  ∀ p : TapState, tapStateOf p.code.toNat = some p

/-- The 14 names have the codes 0 to 13 in table order and the listed keys; UNKNOWN has code 14; no name has code
15; different names have different codes. (R68) -/
def Obligations.NameCodesFollowTheTable : Prop :=
  irTable.map (fun row => (row.2.code, row.1)) =
    [(0, 0x83), (1, 0x84), (2, 0x85), (3, 0x41), (4, 0x43), (5, 0xFF), (6, 0x13), (7, 0x14), (8, 0x15), (9, 0x44),
     (10, 0x46), (11, 0x22), (12, 0x24), (13, 0x61)] ∧
  InstrName.unknown.code = 14 ∧ (∀ n : InstrName, n.code ≠ 15) ∧
  ∀ m n : InstrName, m.code = n.code → m = n

/-- When the block runs, a frame is next and the word formed from tap and the frame decodes to an instruction, step
is exec of that instruction on the state with the frame consumed; its event, if any, joins the output sequence.
(R110, R62, R52) -/
def Obligations.StepRunsTheDecodedInstruction : Prop :=
  ∀ (s : State) (f : Frame) (rest : List Input) (i : Instr),
    s.pending = .frame f :: rest → s.fault = none → decode (frameWord s.tap.toNat f) = .ok i →
    step s = match exec i { s with pending := rest } with
      | .next t => .next { t with emitted := t.emitted ++ t.event.toList }
      | .fault r => .fault r
      | .refused r => .refused r

/-- exec of every instruction answers next in every state, and so does every step: a fault is taken as a state,
never as a stop. Where the spec has no step the form is the model's: the idle step (log entry 4), a fault as a next
state and the frames offered to a halted block (log entry 6), and exec in a state in which the block would not run
the row (log entries 8 and 9). (R24, R64, R110, R172, R177, log entry 4, log entry 6, log entry 8, log entry 9) -/
def Obligations.EveryStepAnswersANextState : Prop :=
  (∀ (i : Instr) (s : State), ∃ t, exec i s = .next t) ∧ ∀ s : State, ∃ t, step s = .next t

/-- When no input is pending, a step leaves every element as it is, with no event. That the model takes a step at
all then is its own choice (log entry 4). (R179, R185, log entry 4) -/
def Obligations.NothingHappensWithoutAnInput : Prop :=
  ∀ s : State, s.pending = [] → step s = .next { s with event := none }

/-- While fault is set, any positive number of frames leaves every element of the block and its output sequence
unchanged, with no event. That the frames pass, so that pending is what came after them, is the model's choice (log
entry 6). A step that takes a halted block to fault = none took a reset. (R173, log entry 6) -/
def Obligations.HaltedBlockIgnoresFramesUntilReset : Prop :=
  (∀ (s : State) (f : Frame) (fs : List Frame) (rest : List Input),
    s.fault ≠ none → s.pending = (f :: fs).map InputOf.frame ++ rest →
    runSteps (fs.length + 1) s = .next { s with pending := rest, event := none }) ∧
  ∀ s t : State, s.fault ≠ none → step s = .next t → t.fault = none → ∃ rest, s.pending = .rst :: rest

/-- When a reset is next, in any state, halted or not, the step gives tap = RUN-TEST/IDLE, empty fields, fault none
and no event. That the instance, the later inputs and what was emitted are kept is the model's choice (log entry
16). State.reset holds the same values. A step from a halted state to fault = none took a reset. (R190, R37, log
entry 16) -/
def Obligations.ResetPutsEveryElementAtItsResetValue : Prop :=
  (∀ (s : State) (rest : List Input), s.pending = .rst :: rest →
    step s = .next { s with tap := 1, drTt := [], drTh := [], irTt := [], irTh := [], fault := none,
                            event := none, pending := rest }) ∧
  (State.reset.tap = 1 ∧ State.reset.drTt = [] ∧ State.reset.drTh = [] ∧ State.reset.irTt = [] ∧
    State.reset.irTh = [] ∧ State.reset.fault = none) ∧
  ∀ s t : State, s.fault ≠ none → step s = .next t → t.fault = none → ∃ rest, s.pending = .rst :: rest

/-- The model's own choices at reset (log entries 2, 3 and 5): the reference instance without a capacity bound, no
input presented, nothing emitted, no event. (R8, R37, log entries 2, 3 and 5) -/
def Obligations.ResetStateOfTheModel : Prop :=
  State.reset.cfg.bufMax = none ∧ State.reset.pending = [] ∧ State.reset.emitted = [] ∧ State.reset.event = none

/-- From State.reset with one frame presented, the step gives State.reset again but for tap, which is SELECT-DR-SCAN
for c = 1 and RUN-TEST/IDLE for c = 0. (R191) -/
def Obligations.FirstFrameAfterReset : Prop :=
  ∀ f : Frame, step (State.reset.present [f]) = .next { State.reset with tap := if f.c then 2 else 1 }

/-- If a step takes a running block to a fault, then every element but fault and the consumed frame is as before and
there is no event; the instance is finite and the frame was taken in SHIFT-DR or SHIFT-IR with a field of that
register holding BUF_MAX bits; the cause is CapacityExceeded with that state, code 2. (R172) -/
def Obligations.OnlyAFullShiftFaultsAndWritesNothingElse : Prop :=
  ∀ s t : State, s.fault = none → step s = .next t → t.fault ≠ none →
    t = { s with pending := s.pending.tail, fault := t.fault, event := none } ∧ t.faultPort = 2 ∧
    ∃ n, s.cfg.bufMax = some n ∧
      ((s.tap = 4 ∧ (s.drTt.length = n ∨ s.drTh.length = n) ∧ t.fault = some (.capacityExceeded .shDr)) ∨
       (s.tap = 11 ∧ (s.irTt.length = n ∨ s.irTh.length = n) ∧ t.fault = some (.capacityExceeded .shIr)))

/-- If a step ends with fault = InvalidState, the state before it had that fault already: the 4-bit tap cannot raise
it. A state value of 16 or more is rejected by the decoder with that value; a running block that is given such a
rejection takes InvalidState with the offending value, no event and none of the step's other writes; and a step of a
running block on a frame is what the block does with the decode of the word of its tap and the frame. That the check
stands in the decoder is the model's (log entry 7). (R64, R171, R172, R97, log entry 7) -/
def Obligations.InvalidStateIsNeverRaised : Prop :=
  (∀ (s t : State) (n : Nat), step s = .next t → t.fault = some (.invalidState n) →
    s.fault = some (.invalidState n)) ∧
  (∀ (n : Nat) (f : Frame), 16 ≤ n →
    decode (frameWord n f) = .error (.stateOutside n) ∧ faultOf (.stateOutside n) = .invalidState n) ∧
  (∀ (n : Nat) (f : Frame) (s : State), 16 ≤ n →
    runFetched (decode (frameWord n f)) s = .next { s with fault := some (.invalidState n), event := none }) ∧
  ∀ (s : State) (f : Frame) (rest : List Input), s.fault = none → s.pending = .frame f :: rest →
    step s = runFetched (decode (frameWord s.tap.toNat f)) { s with pending := rest }

/-- From a running state of the reference instance every number of steps answers a next state that is running,
whatever the inputs. (R28, R174, R175, R176, R177) -/
def Obligations.ReferenceModelNeverFaults : Prop :=
  ∀ (k : Nat) (s : State), s.cfg.bufMax = none → s.fault = none →
    ∃ t, runSteps k s = .next t ∧ t.fault = none ∧ t.cfg.bufMax = none

/-- If a step emits an event then the block was running before it and is running after it. (R178, R121, R172) -/
def Obligations.FaultAndEventNeverComeTogether : Prop :=
  ∀ s t : State, step s = .next t → t.event ≠ none → s.fault = none ∧ t.fault = none

/-- If a running block takes a frame without raising a fault, its tap is the code of T(prev, c). So two running
blocks of any contents with the same tap, on any two frames with the same c, come to the same tap. (R23) -/
def Obligations.NextTapDependsOnTapAndControlBitOnly : Prop :=
  (∀ (s t : State) (p : TapState) (f : Frame) (rest : List Input),
    s.fault = none → s.tap = p.code → s.pending = .frame f :: rest → step s = .next t → t.fault = none →
    t.tap = (transition p f.c).code) ∧
  ∀ (s s' t t' : State) (f f' : Frame) (rest rest' : List Input),
    s.fault = none → s'.fault = none → s.tap = s'.tap → f.c = f'.c →
    s.pending = .frame f :: rest → s'.pending = .frame f' :: rest' →
    step s = .next t → step s' = .next t' → t.fault = none → t'.fault = none → t.tap = t'.tap

/-- On every frame: the DR fields are unchanged, or tap was CAPTURE-DR and both are empty, or tap was SHIFT-DR and
each has one bit of this frame more, at its end; the same for the IR fields; and not both registers change. (R27,
R48, R111, R195, R198) -/
def Obligations.OnlyCaptureAndShiftFramesWriteBuffers : Prop :=
  ∀ (s t : State) (f : Frame) (rest : List Input), s.pending = .frame f :: rest → step s = .next t →
    ((t.drTt = s.drTt ∧ t.drTh = s.drTh) ∨ (s.tap = 3 ∧ t.drTt = [] ∧ t.drTh = []) ∨
      (s.tap = 4 ∧ t.drTt = s.drTt ++ [f.t] ∧ t.drTh = f.h :: s.drTh)) ∧
    ((t.irTt = s.irTt ∧ t.irTh = s.irTh) ∨ (s.tap = 10 ∧ t.irTt = [] ∧ t.irTh = []) ∨
      (s.tap = 11 ∧ t.irTt = f.t :: s.irTt ∧ t.irTh = s.irTh ++ [f.h]))

/-- A running block that takes a frame emits exactly when prev is UPDATE-DR or UPDATE-IR: then one event of that
register's kind with the frame's interval and the values of its fields joins the output sequence; otherwise the
sequence is unchanged. A halted block, which faulted, emits nothing. (R121) -/
def Obligations.EventExactlyOnUpdateFrames : Prop :=
  ∀ (s t : State) (p : TapState) (f : Frame) (rest : List Input),
    s.tap = p.code → s.pending = .frame f :: rest → step s = .next t →
    t.emitted = s.emitted ++ t.event.toList ∧
    (t.event.isSome = true ↔ s.fault = none ∧ isUpdate p = true) ∧ (t.fault ≠ none → t.event = none) ∧
    ∀ e, t.event = some e → e.tStart = f.tStart ∧ e.tEnd = f.tEnd ∧
      ((p = .updDr ∧ e.kind = .dr ∧ e.toTarget = val s.drTt ∧ e.toHost = val s.drTh) ∨
       (p = .updIr ∧ e.kind = .ir ∧ e.toTarget = val s.irTt ∧ e.toHost = val s.irTh))

/-- For every stream of frames and every running state of the reference instance, running the stream consumes it and
emits exactly one event for each frame whose pre-transition state is UPDATE-DR or UPDATE-IR, of kind dr for the one
and ir for the other in the same order, after what was emitted before. (R120) -/
def Obligations.EventCountOverAStream : Prop :=
  ∀ (fs : List Frame) (s : State) (p : TapState) (rest : List Input),
    s.cfg.bufMax = none → s.fault = none → s.tap = p.code → s.pending = fs.map InputOf.frame ++ rest →
    ∃ t es, runSteps fs.length s = .next t ∧ t.pending = rest ∧ t.emitted = s.emitted ++ es ∧
      es.length = ((preStates p fs).filter isUpdate).length ∧
      es.map EventOf.kind = ((preStates p fs).filter isUpdate).map fun q => if q = .updDr then .dr else .ir

/-- After any number of steps, whatever the inputs (resets among them), what was emitted before stands unchanged at
the front, and at most one event a step has been added. The sequence is a field of the model's own (log entry 5),
that a reset keeps it is the model's choice (log entry 16), and idle steps count as steps (log entry 4). (R51, R52,
log entry 4, log entry 5, log entry 16) -/
def Obligations.OutputSequenceOnlyGrows : Prop :=
  ∀ (k : Nat) (s t : State), runSteps k s = .next t → ∃ es, t.emitted = s.emitted ++ es ∧ es.length ≤ k

/-- After every step the instance is as before, and the inputs not yet taken are those before without the first.
Both fields are the model's own (log entries 2 and 3), that a reset keeps them is the model's choice (log entry 16),
and so is that a halted block lets the frame pass (log entry 6). (R8, R28, R60, log entry 2, log entry 3, log entry
6, log entry 16) -/
def Obligations.InstanceAndStreamAreOnlyRead : Prop :=
  ∀ s t : State, step s = .next t → t.cfg = s.cfg ∧ t.pending = s.pending.tail

/-- If the to-target and to-host fields of each register have equal lengths, they have after every step, from any
such state, in finite instances too, on a reset and on a fault. (R36) -/
def Obligations.FieldsOfARegisterKeepEqualLengths : Prop :=
  ∀ s t : State, s.evenFields → step s = .next t → t.evenFields

/-- In a finite instance, if no field holds more than BUF_MAX bits then none does after any step. (R28, R174) -/
def Obligations.FieldsStayWithinCapacity : Prop :=
  ∀ s t : State, s.withinCapacity → step s = .next t → t.withinCapacity

/-- At State.reset, and at the reset of an instance of any capacity, the fields of each register have equal lengths
and none exceeds the capacity. (R36, R37, R28) -/
def Obligations.ResetMeetsTheInvariants : Prop :=
  State.reset.evenFields ∧ State.reset.withinCapacity ∧
  ∀ s : State, s.applyReset.evenFields ∧ s.applyReset.withinCapacity

/-- If no field holds more than BUF_MAX = n bits, an event that a step emits has both values below 2^n. (R74, R28,
R11) -/
def Obligations.EventValuesFitTheCapacity : Prop :=
  ∀ (s t : State) (n : Nat) (e : Event), s.withinCapacity → s.cfg.bufMax = some n → step s = .next t →
    t.event = some e → e.toTarget < 2 ^ n ∧ e.toHost < 2 ^ n

/-- Every event a step emits: if of kind ir, its instruction is the decode of its to-target value, whatever its
to-host value; if of kind dr, it has no instruction. (R157) -/
def Obligations.IrEventsCarryTheDecodedNameDrEventsNone : Prop :=
  ∀ (s t : State) (e : Event), step s = .next t → t.event = some e →
    (e.kind = .ir → e.instruction = some (decodeName e.toTarget)) ∧ (e.kind = .dr → e.instruction = none)

/-- From every running state of the reference instance, five frames with c = 1, whatever their data bits, leave tap
in TEST-LOGIC-RESET and no fault. (R98, R192) -/
def Obligations.FiveOnesReachTestLogicReset : Prop :=
  ∀ (s : State) (f₁ f₂ f₃ f₄ f₅ : Frame) (rest : List Input),
    s.cfg.bufMax = none → s.fault = none →
    s.pending = [f₁, f₂, f₃, f₄, f₅].map InputOf.frame ++ rest →
    f₁.c = true → f₂.c = true → f₃.c = true → f₄.c = true → f₅.c = true →
    ∃ t, runSteps 5 s = .next t ∧ t.tap = 0 ∧ t.fault = none ∧ t.pending = rest

/-- A running block in TEST-LOGIC-RESET, in any instance, on any positive number of frames with c = 1: every element
is unchanged, with no event. (R81, R192) -/
def Obligations.TestLogicResetHoldsAndClearsNothing : Prop :=
  ∀ (s : State) (f : Frame) (fs : List Frame) (rest : List Input),
    s.fault = none → s.tap = 0 → s.pending = (f :: fs).map InputOf.frame ++ rest →
    (∀ g ∈ f :: fs, g.c = true) →
    runSteps (fs.length + 1) s = .next { s with pending := rest, event := none }

/-- Each state reaches TEST-LOGIC-RESET after the listed number of ones and not before; only TLR and SELECT-IR-SCAN
with c = 1 enter it; two automata in any states agree after five ones. (R98, R194) -/
def Obligations.OnesNeededToReachTestLogicReset : Prop :=
  (∀ row ∈ [(TapState.tlr, 0), (.selIr, 1), (.selDr, 2), (.rti, 3), (.updDr, 3), (.updIr, 3), (.ex1Dr, 4),
      (.ex2Dr, 4), (.ex1Ir, 4), (.ex2Ir, 4), (.capDr, 5), (.shDr, 5), (.pauDr, 5), (.capIr, 5), (.shIr, 5),
      (.pauIr, 5)],
    walk row.1 (List.replicate row.2 true) = .tlr ∧
    ∀ j < row.2, walk row.1 (List.replicate j true) ≠ .tlr) ∧
  (∀ p c, transition p c = .tlr ↔ c = true ∧ (p = .tlr ∨ p = .selIr)) ∧
  ∀ p q, walk p (List.replicate 5 true) = walk q (List.replicate 5 true)

/-- The predecessors of the states of both columns are as listed, and no frame leads from an update state back into
its column; a walk that starts outside a column, under any control bits, and ends in a state of it other than its
capture state, was in its capture state before its last frame. (R99) -/
def Obligations.ColumnsAreEnteredThroughCapture : Prop :=
  (∀ p c, transition p c = .capDr ↔ p = .selDr ∧ c = false) ∧
  (∀ p, (∃ c, transition p c = .shDr) ↔ p = .capDr ∨ p = .shDr ∨ p = .ex2Dr) ∧
  (∀ p, (∃ c, transition p c = .ex1Dr) ↔ p = .capDr ∨ p = .shDr) ∧
  (∀ p, (∃ c, transition p c = .pauDr) ↔ p = .ex1Dr ∨ p = .pauDr) ∧
  (∀ p, (∃ c, transition p c = .ex2Dr) ↔ p = .pauDr) ∧
  (∀ p, (∃ c, transition p c = .updDr) ↔ p = .ex1Dr ∨ p = .ex2Dr) ∧
  (∀ c, drColumn (transition .updDr c) = false) ∧
  (∀ p c, transition p c = .capIr ↔ p = .selIr ∧ c = false) ∧
  (∀ p, (∃ c, transition p c = .shIr) ↔ p = .capIr ∨ p = .shIr ∨ p = .ex2Ir) ∧
  (∀ p, (∃ c, transition p c = .ex1Ir) ↔ p = .capIr ∨ p = .shIr) ∧
  (∀ p, (∃ c, transition p c = .pauIr) ↔ p = .ex1Ir ∨ p = .pauIr) ∧
  (∀ p, (∃ c, transition p c = .ex2Ir) ↔ p = .pauIr) ∧
  (∀ p, (∃ c, transition p c = .updIr) ↔ p = .ex1Ir ∨ p = .ex2Ir) ∧
  (∀ c, irColumn (transition .updIr c) = false) ∧
  (∀ p cs, drColumn p = false → drLive (walk p cs) = true →
    ∃ n < cs.length, walk p (cs.take n) = .capDr) ∧
  ∀ p cs, irColumn p = false → irLive (walk p cs) = true →
    ∃ n < cs.length, walk p (cs.take n) = .capIr

/-- A state is its own successor exactly in the six listed cases; the IR column moves as the DR column does, but for
SELECT-IR-SCAN with c = 1; both update states go to SELECT-DR-SCAN or RUN-TEST/IDLE. (R100) -/
def Obligations.ExactlySixStatesHold : Prop :=
  (∀ p c, transition p c = p ↔
    (p, c) ∈ [(TapState.tlr, true), (.rti, false), (.shDr, false), (.pauDr, false), (.shIr, false),
      (.pauIr, false)]) ∧
  (∀ p c, p ∈ [TapState.capDr, .shDr, .ex1Dr, .pauDr, .ex2Dr] →
    transition (mirror p) c = mirror (transition p c)) ∧
  transition .selIr true = .tlr ∧ transition .selDr true = .selIr ∧
  ∀ p, isUpdate p = true → transition p true = .selDr ∧ transition p false = .rti

/-- For every state some control bits walk there from RUN-TEST/IDLE; from every state the five ones of GOTO_TLR and
a 0 walk to RUN-TEST/IDLE; no state is terminal. (R101) -/
def Obligations.EveryStateIsReachable : Prop :=
  (∀ q, ∃ cs, walk .rti cs = q) ∧
  (∀ p, walk p (gotoTlr.map Prod.fst ++ [false]) = .rti) ∧
  ∀ p, ∃ c, transition p c ≠ p

/-- Take a state whose tap is not a DR state after CAPTURE-DR, and the same state with any other DR fields: under
the same inputs, for any number of steps, both emit the same events and have the same tap, fault and IR fields. The
same for IR. From reset both hold: the reset contents of the fields cannot be observed. (R30, R37, R197, R99) -/
def Obligations.BufferContentsBeforeACaptureAreUnobservable : Prop :=
  (∀ (k : Nat) (s : State) (p : TapState) (x y : Bits), s.tap = p.code → drLive p = false →
    ∃ a b, runSteps k s = .next a ∧ runSteps k { s with drTt := x, drTh := y } = .next b ∧
      a.emitted = b.emitted ∧ a.event = b.event ∧ a.tap = b.tap ∧ a.fault = b.fault ∧
      a.irTt = b.irTt ∧ a.irTh = b.irTh) ∧
  (∀ (k : Nat) (s : State) (p : TapState) (x y : Bits), s.tap = p.code → irLive p = false →
    ∃ a b, runSteps k s = .next a ∧ runSteps k { s with irTt := x, irTh := y } = .next b ∧
      a.emitted = b.emitted ∧ a.event = b.event ∧ a.tap = b.tap ∧ a.fault = b.fault ∧
      a.drTt = b.drTt ∧ a.drTh = b.drTh) ∧
  ∀ (k : Nat) (ins : List Input) (w x y z : Bits),
    ∃ a b, runSteps k { State.reset with pending := ins } = .next a ∧
      runSteps k { State.reset with pending := ins, drTt := w, drTh := x, irTt := y, irTh := z } = .next b ∧
      a.emitted = b.emitted ∧ a.event = b.event ∧ a.tap = b.tap ∧ a.fault = b.fault

/-- For every function on time tags, monotone or not, the step of the state with all its tags renamed is the step of
the state, renamed: the block never compares, adds or inspects a tag. (R181) -/
def Obligations.TimeTagsAreOnlyCopied : Prop :=
  ∀ (g : NatTime → NatTime) (s : State),
    step (s.retime g) = match step s with
      | .next t => .next (t.retime g)
      | .fault r => .fault r
      | .refused r => .refused r

/-- From a running state in RUN-TEST/IDLE, UPDATE-DR or UPDATE-IR with room for the bits, SCAN_DR of any number of
bit pairs (none included) ends in RUN-TEST/IDLE, running, with one dr event as the last emitted, of the last frame's
interval, with to_target the sum of x_i 2^(n-1-i) and to_host the sum of y_i 2^i; the IR fields are unchanged. Only
a start in an update state emits one event more, before it. (R69, R72, R123, R198) -/
def Obligations.DrScanReportsTheShiftedBits : Prop :=
  ∀ (xs : List (Bit × Bit)) (k : Nat) (s : State) (rest : List Input),
    s.fault = none → s.tap ∈ [1, 8, 15] → (∀ n, s.cfg.bufMax = some n → xs.length ≤ n) →
    s.pending = (stampFrom k (scanDr xs)).map InputOf.frame ++ rest →
    ∃ t e es, runSteps (scanDr xs).length s = .next t ∧ t.tap = 1 ∧ t.fault = none ∧ t.pending = rest ∧
      t.irTt = s.irTt ∧ t.irTh = s.irTh ∧
      t.event = some e ∧ t.emitted = s.emitted ++ es ++ [e] ∧ es.length = (if s.tap = 1 then 0 else 1) ∧
      e.kind = .dr ∧ e.toTarget = msbFirstSum (xs.map Prod.fst) ∧ e.toHost = lsbFirstSum (xs.map Prod.snd) ∧
      e.instruction = none ∧ e.tEnd = k + (scanDr xs).length ∧ e.tStart + 1 = e.tEnd

/-- From a running state in RUN-TEST/IDLE, UPDATE-DR or UPDATE-IR with room for the bits, SCAN_IR of one or more bit
pairs ends in RUN-TEST/IDLE, running, with one ir event as the last emitted, with to_target the sum of x_i 2^i,
to_host the sum of y_i 2^(n-1-i) and the name that to_target decodes to; the DR fields are unchanged. (R69, R72,
R124, R198, R140) -/
def Obligations.IrScanReportsAndDecodesTheShiftedBits : Prop :=
  ∀ (x : Bit × Bit) (xs : List (Bit × Bit)) (k : Nat) (s : State) (rest : List Input),
    s.fault = none → s.tap ∈ [1, 8, 15] → (∀ n, s.cfg.bufMax = some n → xs.length + 1 ≤ n) →
    s.pending = (stampFrom k (scanIr x xs)).map InputOf.frame ++ rest →
    ∃ t e es, runSteps (scanIr x xs).length s = .next t ∧ t.tap = 1 ∧ t.fault = none ∧ t.pending = rest ∧
      t.drTt = s.drTt ∧ t.drTh = s.drTh ∧
      t.event = some e ∧ t.emitted = s.emitted ++ es ++ [e] ∧ es.length = (if s.tap = 1 then 0 else 1) ∧
      e.kind = .ir ∧ e.toTarget = lsbFirstSum ((x :: xs).map Prod.fst) ∧
      e.toHost = msbFirstSum ((x :: xs).map Prod.snd) ∧
      e.instruction = some (decodeName (lsbFirstSum ((x :: xs).map Prod.fst))) ∧
      e.tEnd = k + (scanIr x xs).length ∧ e.tStart + 1 = e.tEnd

/-- The bits of any pattern inserted one by one at the DR ends and at the IR ends give equal values if and only if
the pattern reads the same backwards, for the to-target fields and for the to-host fields. From reset, SCAN_DR and
SCAN_IR of the same one or more bit pairs each end with an event, and the two to_target values are equal if and only
if the to-target bits read the same backwards, the two to_host values if and only if the to-host bits do. (R124,
R123, R44, R45, R72) -/
def Obligations.DrAndIrAgreeExactlyOnPalindromes : Prop :=
  (∀ xs : Bits, val (xs.foldl (fun field b => insertBit drTtEnd b field) []) =
    val (xs.foldl (fun field b => insertBit irTtEnd b field) []) ↔ xs.reverse = xs) ∧
  (∀ xs : Bits, val (xs.foldl (fun field b => insertBit drThEnd b field) []) =
    val (xs.foldl (fun field b => insertBit irThEnd b field) []) ↔ xs.reverse = xs) ∧
  ∀ (x : Bit × Bit) (xs : List (Bit × Bit)) (k : Nat), ∃ t u d i,
    runSteps (scanDr (x :: xs)).length (State.reset.present (stampFrom k (scanDr (x :: xs)))) = .next t ∧
    runSteps (scanIr x xs).length (State.reset.present (stampFrom k (scanIr x xs))) = .next u ∧
    t.event = some d ∧ u.event = some i ∧
    (d.toTarget = i.toTarget ↔ ((x :: xs).map Prod.fst).reverse = (x :: xs).map Prod.fst) ∧
    (d.toHost = i.toHost ↔ ((x :: xs).map Prod.snd).reverse = (x :: xs).map Prod.snd)

/-- val of the empty sequence is 0, an appended bit doubles and adds, val is the sum of s_i 2^(n-1-i), and a leading
0 does not change it; read backwards it is the sum of s_i 2^i. (R11) -/
def Obligations.ValueOfABitSequence : Prop :=
  val [] = 0 ∧ (∀ (s : Bits) (b : Bit), val (s ++ [b]) = 2 * val s + b.toNat) ∧
  (∀ s : Bits, val s = msbFirstSum s) ∧ (∀ s : Bits, val (false :: s) = val s) ∧
  ∀ s : Bits, val s.reverse = lsbFirstSum s

/-- The pair of the empty field is (0, 0); after inserting any bits one by one at either end the pair form gives the
pair of the sequence; its second part is val; without the length the value does not determine a prepend. (R29) -/
def Obligations.PairFormFollowsTheSequenceForm : Prop :=
  pairOf [] = (0, 0) ∧
  (∀ (place : InsertEnd) (bits field : Bits),
    pairOf (bits.foldl (fun s b => insertBit place b s) field) =
      bits.foldl (fun p b => insertPair place b p) (pairOf field)) ∧
  (∀ field : Bits, (pairOf field).2 = val field) ∧
  (∀ (b : Bit) (n v : Nat), insertPair .back b (n, v) = (n + 1, 2 * v + b.toNat) ∧
    insertPair .front b (n, v) = (n + 1, v + b.toNat * 2 ^ n)) ∧
  ∃ a b : Bits, val a = val b ∧ val (insertBit .front true a) ≠ val (insertBit .front true b)

/-- From EXIT1 of either register, running: a c = 0 frame to PAUSE, any number of c = 0 frames there, a c = 1 frame
to EXIT2 and a c = 0 frame lead back to SHIFT with every field and all else unchanged, whatever the data bits; the
next frame, in SHIFT with room, inserts its two bits into those same fields. And on every path from CAPTURE through
SHIFT, EXIT1, PAUSE and EXIT2 to UPDATE, with room for the bits shifted on it, the UPDATE frame's event has the
values of the bits of all the frames taken in SHIFT, and no others. (R122) -/
def Obligations.PauseDoesNotEndAShiftPhase : Prop :=
  (∀ (s : State) (f g h : Frame) (fs : List Frame) (rest : List Input),
    s.fault = none → s.pending = (f :: fs ++ [g, h]).map InputOf.frame ++ rest →
    f.c = false → (∀ q ∈ fs, q.c = false) → g.c = true → h.c = false →
    (s.tap = 5 → runSteps (fs.length + 3) s = .next { s with tap := 4, event := none, pending := rest }) ∧
    (s.tap = 12 → runSteps (fs.length + 3) s = .next { s with tap := 11, event := none, pending := rest }) ∧
    ∀ (q : Frame) (later : List Input), rest = .frame q :: later →
      (s.tap = 5 → hasRoom s.cfg.bufMax s.drTt → hasRoom s.cfg.bufMax s.drTh →
        runSteps (fs.length + 4) s = .next
          { s with tap := if q.c then 5 else 4, drTt := s.drTt ++ [q.t], drTh := q.h :: s.drTh,
                   event := none, pending := later }) ∧
      (s.tap = 12 → hasRoom s.cfg.bufMax s.irTt → hasRoom s.cfg.bufMax s.irTh →
        runSteps (fs.length + 4) s = .next
          { s with tap := if q.c then 12 else 11, irTt := q.t :: s.irTt, irTh := s.irTh ++ [q.h],
                   event := none, pending := later })) ∧
  (∀ (s : State) (f g : Frame) (fs : List Frame) (rest : List Input),
    s.fault = none → s.tap = 3 → s.pending = (f :: fs ++ [g]).map InputOf.frame ++ rest →
    (∀ p ∈ preStates (transition .capDr f.c) fs, p ∈ [TapState.shDr, .ex1Dr, .pauDr, .ex2Dr]) →
    walk .capDr ((f :: fs).map FrameOf.c) = .updDr →
    (∀ n, s.cfg.bufMax = some n → (framesIn .shDr .capDr (f :: fs)).length ≤ n) →
    ∃ t e, runSteps (fs.length + 2) s = .next t ∧ t.event = some e ∧ e.kind = .dr ∧
      e.toTarget = msbFirstSum ((framesIn .shDr .capDr (f :: fs)).map FrameOf.t) ∧
      e.toHost = lsbFirstSum ((framesIn .shDr .capDr (f :: fs)).map FrameOf.h)) ∧
  ∀ (s : State) (f g : Frame) (fs : List Frame) (rest : List Input),
    s.fault = none → s.tap = 10 → s.pending = (f :: fs ++ [g]).map InputOf.frame ++ rest →
    (∀ p ∈ preStates (transition .capIr f.c) fs, p ∈ [TapState.shIr, .ex1Ir, .pauIr, .ex2Ir]) →
    walk .capIr ((f :: fs).map FrameOf.c) = .updIr →
    (∀ n, s.cfg.bufMax = some n → (framesIn .shIr .capIr (f :: fs)).length ≤ n) →
    ∃ t e, runSteps (fs.length + 2) s = .next t ∧ t.event = some e ∧ e.kind = .ir ∧
      e.toTarget = lsbFirstSum ((framesIn .shIr .capIr (f :: fs)).map FrameOf.t) ∧
      e.toHost = msbFirstSum ((framesIn .shIr .capIr (f :: fs)).map FrameOf.h)

/-- From CAPTURE-DR or CAPTURE-IR, running, with any fields: a c = 1 frame, a c = 1 frame and any frame give an
event of that register with both values 0 (and the name UNKNOWN for IR) and no fault, in every instance. (R125) -/
def Obligations.EmptyShiftReportsZero : Prop :=
  ∀ (s : State) (f g h : Frame) (rest : List Input),
    s.fault = none → s.pending = [f, g, h].map InputOf.frame ++ rest → f.c = true → g.c = true →
    (s.tap = 3 → ∃ t, runSteps 3 s = .next t ∧ t.fault = none ∧
      t.event = some { tStart := h.tStart, tEnd := h.tEnd, kind := .dr, toTarget := 0, toHost := 0,
                       instruction := none } ∧ t.emitted = s.emitted ++ t.event.toList) ∧
    (s.tap = 10 → ∃ t, runSteps 3 s = .next t ∧ t.fault = none ∧
      t.event = some { tStart := h.tStart, tEnd := h.tEnd, kind := .ir, toTarget := 0, toHost := 0,
                       instruction := some .unknown } ∧ t.emitted = s.emitted ++ t.event.toList)

/-- exec of IR.UPDATE@UPD-IR is exec of the instruction that the IR value decodes to, on the state in which tap is
written and the event is emitted without a name. That the entry runs within the frame's step is the model's form
(log entry 9). (R117, R140, log entry 9) -/
def Obligations.IrUpdateRunsTheSelectedEntry : Prop :=
  ∀ (f : Frame) (s : State) (i : Instr), decode (.irv (val s.irTt)) = .ok i →
    exec (.irUpdateUpdIr f) s = exec i
      { s with tap := if f.c then 2 else 1,
               event := some { tStart := f.tStart, tEnd := f.tEnd, kind := .ir, toTarget := val s.irTt,
                               toHost := val s.irTh, instruction := none } }

/-- With an event, ev_valid is 1, ev_kind is 0 for dr and 1 for ir, the values and the interval are the event's, and
ev_instr is the name's code on a named event and 0 on one without a name; without one ev_valid is 0 and the others
give nothing (log entry 12). The fault port is 0, 1 or 2 by the cause, never 3. (R74, R170, log entry 12) -/
def Obligations.PortsShowTheEventAndTheFault : Prop :=
  (∀ (s : State) (e : Event), s.event = some e → s.evValid = 1 ∧
    s.evKind = some (if e.kind = .ir then 1 else 0) ∧ s.evToTarget = some e.toTarget ∧
    s.evToHost = some e.toHost ∧ s.evTStart = some e.tStart ∧ s.evTEnd = some e.tEnd ∧
    (∀ n, e.instruction = some n → s.evInstr = some n.code) ∧ (e.instruction = none → s.evInstr = some 0)) ∧
  (∀ s : State, s.event = none → s.evValid = 0 ∧ s.evKind = none ∧ s.evToTarget = none ∧ s.evToHost = none ∧
    s.evTStart = none ∧ s.evTEnd = none ∧ s.evInstr = none) ∧
  ∀ s : State, (s.fault = none → s.faultPort = 0) ∧ (∀ n, s.fault = some (.invalidState n) → s.faultPort = 1) ∧
    (∀ p, s.fault = some (.capacityExceeded p) → s.faultPort = 2) ∧ s.faultPort ≠ 3

/-- Under any rendering of numbers a dr event has the three fields of update-dr and a named ir event the four of
update-ir. The view is the model's (log entry 13). (R65, R66, log entry 13) -/
def Obligations.EventTextFollowsTheTemplates : Prop :=
  ∀ (hexFmt : Nat → String) (a b : NatTime) (v u : Nat) (n : InstrName),
    eventText hexFmt ⟨a, b, .dr, v, u, none⟩ =
      ("update-dr", [("reg", "dr"), ("to_target", hexFmt v), ("to_host", hexFmt u)]) ∧
    eventText hexFmt ⟨a, b, .ir, v, u, some n⟩ =
      ("update-ir", [("reg", "ir"), ("to_target", hexFmt v), ("to_host", hexFmt u), ("instruction", nameText n)])

/-- For every type of time tags: a running block in UPDATE-DR or UPDATE-IR takes a frame with tags of that type and emits
the register's event with the frame's own two tags; a frame in any other state, a frame while the block is halted, and a
reset emit none. (R8, R60, R61, R65, R114, R117, R181) -/
def Obligations.TimeTypeIsAnArgumentOfTheStep : Prop :=
  ∀ (Time : Type) (f : FrameOf Time) (b : Block),
    (b.fault = none → b.tap = 8 → stepOver Time (.frame f) b = .next
      ({ b with tap := if f.c then 2 else 1 },
        some { tStart := f.tStart, tEnd := f.tEnd, kind := .dr, toTarget := val b.drTt, toHost := val b.drTh,
               instruction := none })) ∧
    (b.fault = none → b.tap = 15 → stepOver Time (.frame f) b = .next
      ({ b with tap := if f.c then 2 else 1 },
        some { tStart := f.tStart, tEnd := f.tEnd, kind := .ir, toTarget := val b.irTt, toHost := val b.irTh,
               instruction := some (decodeName (val b.irTt)) })) ∧
    (b.tap ≠ 8 → b.tap ≠ 15 → ∃ b', stepOver Time (.frame f) b = .next (b', none)) ∧
    (b.fault ≠ none → stepOver Time (.frame f) b = .next (b, none)) ∧
    stepOver Time .rst b = .next
      ({ b with tap := 1, drTt := [], drTh := [], irTt := [], irTh := [], fault := none }, none)

/-- For every two types of time tags and every function between them, the block on a stream with its tags renamed
ends as on the stream, and its events are those of the stream, renamed. At the time type of the host's instance the
run is the run of the steps: from every state, as many steps as inputs are presented take them all, end with that
block and add those events to the output sequence. The second clause is in the model's form: the inputs and the
output sequence are fields of the model's own (log entries 3 and 5), that a halted block's frames are taken is the
model's choice (log entry 6), and so is that a reset keeps the instance, the later inputs and what was emitted (log
entry 16). (R8, R52, R60, R61, R181, log entry 1, log entry 3, log entry 5, log entry 6, log entry 16) -/
def Obligations.RunsAreTheSameOverEveryTimeType : Prop :=
  (∀ (Time Time' : Type) (g : Time → Time') (ins : List (InputOf Time)) (b : Block),
    ∃ b' es, runOver Time ins b = .next (b', es) ∧
      runOver Time' (ins.map (InputOf.retag g)) b = .next (b', es.map (EventOf.retag g))) ∧
  ∀ s : State, ∃ t es, runSteps s.pending.length s = .next t ∧
    runOver NatTime s.pending s.block = .next (t.block, es) ∧
    t.emitted = s.emitted ++ es ∧ t.pending = []
end

