-- ==== Sys2Proof/Laws/Decode.lean ====
section
/-! SUPPORT. The lemmas of the codes, the decode table and the fetch. -/

namespace Sys2Proof

@[simp] theorem tapStateOf_code (p : TapState) : tapStateOf p.code.toNat = some p := by
  cases p <;> rfl

/-- Every 4-bit code is the code of a state (10_state.md R22). -/
theorem exists_state_of_code (x : StateCode) : ∃ p : TapState, p.code = x := by
  have h : ∀ n : Fin 16, ∃ p : TapState, p.code = BitVec.ofFin n := by
    intro n
    fin_cases n
    exacts [⟨.tlr, rfl⟩, ⟨.rti, rfl⟩, ⟨.selDr, rfl⟩, ⟨.capDr, rfl⟩, ⟨.shDr, rfl⟩, ⟨.ex1Dr, rfl⟩,
      ⟨.pauDr, rfl⟩, ⟨.ex2Dr, rfl⟩, ⟨.updDr, rfl⟩, ⟨.selIr, rfl⟩, ⟨.capIr, rfl⟩, ⟨.shIr, rfl⟩,
      ⟨.ex1Ir, rfl⟩, ⟨.pauIr, rfl⟩, ⟨.ex2Ir, rfl⟩, ⟨.updIr, rfl⟩]
  exact h x.toFin

theorem code_injective {p q : TapState} (h : p.code = q.code) : p = q := by
  have := congrArg (fun x : StateCode => tapStateOf x.toNat) h
  simpa using this

theorem bit_beq (b : Bit) : (b.toNat == 1) = b := by cases b <;> rfl

/-- The state field and the frame of a frame word (30_encoding.md R62). -/
theorem frameWord_fields (n : Nat) (f : Frame) :
    (n * 8 + f.c.toNat * 4 + f.t.toNat * 2 + f.h.toNat) / 8 = n ∧
    frameOfWord (n * 8 + f.c.toNat * 4 + f.t.toNat * 2 + f.h.toNat) f.tStart f.tEnd = f := by
  have hc := Bool.toNat_le f.c
  have ht := Bool.toNat_le f.t
  have hh := Bool.toNat_le f.h
  have e4 : (n * 8 + f.c.toNat * 4 + f.t.toNat * 2 + f.h.toNat) / 4 % 2 = f.c.toNat := by omega
  have e2 : (n * 8 + f.c.toNat * 4 + f.t.toNat * 2 + f.h.toNat) / 2 % 2 = f.t.toNat := by omega
  have e1 : (n * 8 + f.c.toNat * 4 + f.t.toNat * 2 + f.h.toNat) % 2 = f.h.toNat := by omega
  refine ⟨by omega, ?_⟩
  simp only [frameOfWord, e4, e2, e1, bit_beq]

/-- A frame word decodes to the instruction of its state, with the frame it was made from. -/
theorem decode_frameWord (p : TapState) (f : Frame) :
    decode (frameWord p.code.toNat f) = .ok (frameInstr p f) := by
  obtain ⟨hs, hf⟩ := frameWord_fields p.code.toNat f
  simp only [decode, frameWord, hs, hf, tapStateOf_code]

theorem lookup_none_iff (table : List (Nat × InstrName)) (v : Nat) :
    table.lookup v = none ↔ (table.all fun row => row.1 != v) = true := by
  induction table with
  | nil => simp
  | cons row table ih =>
    obtain ⟨k, n⟩ := row
    by_cases h : v = k
    · simp [List.lookup, h]
    · have h' : (v == k) = false := by simpa using h
      have h'' : (k != v) = true := by simpa using fun e => h e.symm
      simp [List.lookup, h', ih, h'']

theorem lookup_mem {table : List (Nat × InstrName)} {v : Nat} {n : InstrName}
    (h : table.lookup v = some n) : (v, n) ∈ table := by
  induction table with
  | nil => simp at h
  | cons row table ih =>
    obtain ⟨k, m⟩ := row
    rw [List.lookup] at h
    split at h
    · rename_i e
      simp_all
    · exact List.mem_cons_of_mem _ (ih h)

end Sys2Proof

namespace Sys2Proof.Machine

/-- A fetch in state `p` gives the instruction of `p` (41_shift_accumulator.md R110). -/
theorem fetch_eq {s : State} {p : TapState} (h : s.tap = p.code) (f : Frame) :
    fetch f s = .ok (frameInstr p f) := by
  rw [fetch, h, decode_frameWord]

end Sys2Proof.Machine
end

