-- ==== Sys2Proof/Laws/Operands.lean ====
section
/-! SUPPORT. The small lemmas of the bit sequences (00_scope.md R10, R11; 10_state.md R29). -/

namespace Sys2Proof.Machine

@[simp] theorem val_nil : val [] = 0 := rfl

@[simp] theorem val_append_one (s : Bits) (b : Bit) : val (s ++ [b]) = 2 * val s + b.toNat := by
  simp [val]

theorem foldl_from (s : Bits) (a : Nat) :
    s.foldl (fun v b => 2 * v + b.toNat) a = a * 2 ^ s.length + val s := by
  induction s generalizing a with
  | nil => simp [val]
  | cons b s ih =>
    have h0 : val (b :: s) = b.toNat * 2 ^ s.length + val s := by
      simp only [val, List.foldl_cons, Nat.mul_zero, Nat.zero_add]
      exact ih b.toNat
    rw [List.foldl_cons, ih, h0, List.length_cons, pow_succ]
    ring

@[simp] theorem val_cons (b : Bit) (s : Bits) : val (b :: s) = val s + b.toNat * 2 ^ s.length := by
  have := foldl_from s b.toNat
  simp only [val, List.foldl_cons, Nat.mul_zero, Nat.zero_add] at this ⊢
  omega

theorem val_append (s u : Bits) : val (s ++ u) = val s * 2 ^ u.length + val u := by
  rw [val, List.foldl_append, foldl_from]
  rfl

theorem val_lt (s : Bits) : val s < 2 ^ s.length := by
  induction s with
  | nil => simp
  | cons b s ih =>
    rw [val_cons, List.length_cons, pow_succ]
    have : b.toNat ≤ 1 := Bool.toNat_le b
    nlinarith

@[simp] theorem insertBit_front (b : Bit) (s : Bits) : insertBit .front b s = b :: s := rfl

@[simp] theorem insertBit_back (b : Bit) (s : Bits) : insertBit .back b s = s ++ [b] := rfl

@[simp] theorem length_insertBit (place : InsertEnd) (b : Bit) (s : Bits) :
    (insertBit place b s).length = s.length + 1 := by
  cases place <;> simp

theorem fieldFull_iff (m : Option Nat) (s : Bits) : fieldFull m s = true ↔ m = some s.length := by
  cases m with
  | none => simp [fieldFull]
  | some n => simp [fieldFull, @eq_comm _ n]

end Sys2Proof.Machine
end

