-- ==== Sys2Proof/Laws/PerInstr.lean ====
section
/-! SUPPORT. One lemma per instruction: its encoding is a 7-bit frame operation word or an instruction-register value
(30_encoding.md R62, R67). -/

namespace Sys2Proof.Laws.EncodeShape

/-- A word of the opcode table's two formats: a frame operation word has 7 bits. -/
def fits : CodeWord → Prop
  | .frame bits _ _ => bits < 128
  | .irv _ => True

/-- The instruction's encoding is a word of its format. -/
def Statement (i : Instr) : Prop := fits (encode i)

theorem fits_frameWord (code : Nat) (hc : code < 16) (f : Frame) : fits (frameWord code f) := by
  have h1 := Bool.toNat_le f.c
  have h2 := Bool.toNat_le f.t
  have h3 := Bool.toNat_le f.h
  simp only [fits, frameWord]
  omega

theorem nopTlr (f : Frame) : Statement (.nopTlr f) := fits_frameWord _ (by decide) f
theorem nopRti (f : Frame) : Statement (.nopRti f) := fits_frameWord _ (by decide) f
theorem nopSelDr (f : Frame) : Statement (.nopSelDr f) := fits_frameWord _ (by decide) f
theorem drClearCapDr (f : Frame) : Statement (.drClearCapDr f) := fits_frameWord _ (by decide) f
theorem drShiftShDr (f : Frame) : Statement (.drShiftShDr f) := fits_frameWord _ (by decide) f
theorem nopEx1Dr (f : Frame) : Statement (.nopEx1Dr f) := fits_frameWord _ (by decide) f
theorem nopPauDr (f : Frame) : Statement (.nopPauDr f) := fits_frameWord _ (by decide) f
theorem nopEx2Dr (f : Frame) : Statement (.nopEx2Dr f) := fits_frameWord _ (by decide) f
theorem drUpdateUpdDr (f : Frame) : Statement (.drUpdateUpdDr f) := fits_frameWord _ (by decide) f
theorem nopSelIr (f : Frame) : Statement (.nopSelIr f) := fits_frameWord _ (by decide) f
theorem irClearCapIr (f : Frame) : Statement (.irClearCapIr f) := fits_frameWord _ (by decide) f
theorem irShiftShIr (f : Frame) : Statement (.irShiftShIr f) := fits_frameWord _ (by decide) f
theorem nopEx1Ir (f : Frame) : Statement (.nopEx1Ir f) := fits_frameWord _ (by decide) f
theorem nopPauIr (f : Frame) : Statement (.nopPauIr f) := fits_frameWord _ (by decide) f
theorem nopEx2Ir (f : Frame) : Statement (.nopEx2Ir f) := fits_frameWord _ (by decide) f
theorem irUpdateUpdIr (f : Frame) : Statement (.irUpdateUpdIr f) := fits_frameWord _ (by decide) f
theorem irAddr16bit : Statement .irAddr16bit := trivial
theorem irAddrCapture : Statement .irAddrCapture := trivial
theorem irDataToAddr : Statement .irDataToAddr := trivial
theorem irData16bit : Statement .irData16bit := trivial
theorem irDataQuick : Statement .irDataQuick := trivial
theorem irBypass : Statement .irBypass := trivial
theorem irCntrlSig16bit : Statement .irCntrlSig16bit := trivial
theorem irCntrlSigCapture : Statement .irCntrlSigCapture := trivial
theorem irCntrlSigRelease : Statement .irCntrlSigRelease := trivial
theorem irDataPsa : Statement .irDataPsa := trivial
theorem irShiftOutPsa : Statement .irShiftOutPsa := trivial
theorem irPrepareBlow : Statement .irPrepareBlow := trivial
theorem irExBlow : Statement .irExBlow := trivial
theorem irJmbExchange : Statement .irJmbExchange := trivial
theorem unknown (v : Nat) : Statement (.unknown v) := trivial

end Sys2Proof.Laws.EncodeShape
end

