-- ==== Sys2Proof/Laws/State.lean ====
section
/-! SUPPORT. One lemma per field per named operation on the state. -/

namespace Sys2Proof.Machine

@[simp] theorem noEvent_tap (s : State) : s.noEvent.tap = s.tap := rfl
@[simp] theorem noEvent_drTt (s : State) : s.noEvent.drTt = s.drTt := rfl
@[simp] theorem noEvent_drTh (s : State) : s.noEvent.drTh = s.drTh := rfl
@[simp] theorem noEvent_irTt (s : State) : s.noEvent.irTt = s.irTt := rfl
@[simp] theorem noEvent_irTh (s : State) : s.noEvent.irTh = s.irTh := rfl
@[simp] theorem noEvent_fault (s : State) : s.noEvent.fault = s.fault := rfl
@[simp] theorem noEvent_event (s : State) : s.noEvent.event = none := rfl
@[simp] theorem noEvent_cfg (s : State) : s.noEvent.cfg = s.cfg := rfl
@[simp] theorem noEvent_pending (s : State) : s.noEvent.pending = s.pending := rfl
@[simp] theorem noEvent_emitted (s : State) : s.noEvent.emitted = s.emitted := rfl

@[simp] theorem advance_tap (prev : TapState) (c : Bit) (s : State) : (s.advance prev c).tap = (transition prev c).code := rfl
@[simp] theorem advance_drTt (prev : TapState) (c : Bit) (s : State) : (s.advance prev c).drTt = s.drTt := rfl
@[simp] theorem advance_drTh (prev : TapState) (c : Bit) (s : State) : (s.advance prev c).drTh = s.drTh := rfl
@[simp] theorem advance_irTt (prev : TapState) (c : Bit) (s : State) : (s.advance prev c).irTt = s.irTt := rfl
@[simp] theorem advance_irTh (prev : TapState) (c : Bit) (s : State) : (s.advance prev c).irTh = s.irTh := rfl
@[simp] theorem advance_fault (prev : TapState) (c : Bit) (s : State) : (s.advance prev c).fault = s.fault := rfl
@[simp] theorem advance_event (prev : TapState) (c : Bit) (s : State) : (s.advance prev c).event = none := rfl
@[simp] theorem advance_cfg (prev : TapState) (c : Bit) (s : State) : (s.advance prev c).cfg = s.cfg := rfl
@[simp] theorem advance_pending (prev : TapState) (c : Bit) (s : State) : (s.advance prev c).pending = s.pending := rfl
@[simp] theorem advance_emitted (prev : TapState) (c : Bit) (s : State) : (s.advance prev c).emitted = s.emitted := rfl

@[simp] theorem clearDr_tap (s : State) : s.clearDr.tap = s.tap := rfl
@[simp] theorem clearDr_drTt (s : State) : s.clearDr.drTt = [] := rfl
@[simp] theorem clearDr_drTh (s : State) : s.clearDr.drTh = [] := rfl
@[simp] theorem clearDr_irTt (s : State) : s.clearDr.irTt = s.irTt := rfl
@[simp] theorem clearDr_irTh (s : State) : s.clearDr.irTh = s.irTh := rfl
@[simp] theorem clearDr_fault (s : State) : s.clearDr.fault = s.fault := rfl
@[simp] theorem clearDr_event (s : State) : s.clearDr.event = s.event := rfl
@[simp] theorem clearDr_cfg (s : State) : s.clearDr.cfg = s.cfg := rfl
@[simp] theorem clearDr_pending (s : State) : s.clearDr.pending = s.pending := rfl
@[simp] theorem clearDr_emitted (s : State) : s.clearDr.emitted = s.emitted := rfl

@[simp] theorem clearIr_tap (s : State) : s.clearIr.tap = s.tap := rfl
@[simp] theorem clearIr_drTt (s : State) : s.clearIr.drTt = s.drTt := rfl
@[simp] theorem clearIr_drTh (s : State) : s.clearIr.drTh = s.drTh := rfl
@[simp] theorem clearIr_irTt (s : State) : s.clearIr.irTt = [] := rfl
@[simp] theorem clearIr_irTh (s : State) : s.clearIr.irTh = [] := rfl
@[simp] theorem clearIr_fault (s : State) : s.clearIr.fault = s.fault := rfl
@[simp] theorem clearIr_event (s : State) : s.clearIr.event = s.event := rfl
@[simp] theorem clearIr_cfg (s : State) : s.clearIr.cfg = s.cfg := rfl
@[simp] theorem clearIr_pending (s : State) : s.clearIr.pending = s.pending := rfl
@[simp] theorem clearIr_emitted (s : State) : s.clearIr.emitted = s.emitted := rfl

@[simp] theorem shiftDr_tap (t h : Bit) (s : State) : (s.shiftDr t h).tap = s.tap := rfl
@[simp] theorem shiftDr_drTt (t h : Bit) (s : State) : (s.shiftDr t h).drTt = s.drTt ++ [t] := rfl
@[simp] theorem shiftDr_drTh (t h : Bit) (s : State) : (s.shiftDr t h).drTh = h :: s.drTh := rfl
@[simp] theorem shiftDr_irTt (t h : Bit) (s : State) : (s.shiftDr t h).irTt = s.irTt := rfl
@[simp] theorem shiftDr_irTh (t h : Bit) (s : State) : (s.shiftDr t h).irTh = s.irTh := rfl
@[simp] theorem shiftDr_fault (t h : Bit) (s : State) : (s.shiftDr t h).fault = s.fault := rfl
@[simp] theorem shiftDr_event (t h : Bit) (s : State) : (s.shiftDr t h).event = s.event := rfl
@[simp] theorem shiftDr_cfg (t h : Bit) (s : State) : (s.shiftDr t h).cfg = s.cfg := rfl
@[simp] theorem shiftDr_pending (t h : Bit) (s : State) : (s.shiftDr t h).pending = s.pending := rfl
@[simp] theorem shiftDr_emitted (t h : Bit) (s : State) : (s.shiftDr t h).emitted = s.emitted := rfl

@[simp] theorem shiftIr_tap (t h : Bit) (s : State) : (s.shiftIr t h).tap = s.tap := rfl
@[simp] theorem shiftIr_drTt (t h : Bit) (s : State) : (s.shiftIr t h).drTt = s.drTt := rfl
@[simp] theorem shiftIr_drTh (t h : Bit) (s : State) : (s.shiftIr t h).drTh = s.drTh := rfl
@[simp] theorem shiftIr_irTt (t h : Bit) (s : State) : (s.shiftIr t h).irTt = t :: s.irTt := rfl
@[simp] theorem shiftIr_irTh (t h : Bit) (s : State) : (s.shiftIr t h).irTh = s.irTh ++ [h] := rfl
@[simp] theorem shiftIr_fault (t h : Bit) (s : State) : (s.shiftIr t h).fault = s.fault := rfl
@[simp] theorem shiftIr_event (t h : Bit) (s : State) : (s.shiftIr t h).event = s.event := rfl
@[simp] theorem shiftIr_cfg (t h : Bit) (s : State) : (s.shiftIr t h).cfg = s.cfg := rfl
@[simp] theorem shiftIr_pending (t h : Bit) (s : State) : (s.shiftIr t h).pending = s.pending := rfl
@[simp] theorem shiftIr_emitted (t h : Bit) (s : State) : (s.shiftIr t h).emitted = s.emitted := rfl

@[simp] theorem emitDr_tap (f : Frame) (s : State) : (s.emitDr f).tap = s.tap := rfl
@[simp] theorem emitDr_drTt (f : Frame) (s : State) : (s.emitDr f).drTt = s.drTt := rfl
@[simp] theorem emitDr_drTh (f : Frame) (s : State) : (s.emitDr f).drTh = s.drTh := rfl
@[simp] theorem emitDr_irTt (f : Frame) (s : State) : (s.emitDr f).irTt = s.irTt := rfl
@[simp] theorem emitDr_irTh (f : Frame) (s : State) : (s.emitDr f).irTh = s.irTh := rfl
@[simp] theorem emitDr_fault (f : Frame) (s : State) : (s.emitDr f).fault = s.fault := rfl
@[simp] theorem emitDr_event (f : Frame) (s : State) : (s.emitDr f).event = some ⟨f.tStart, f.tEnd, .dr, val s.drTt, val s.drTh, none⟩ := rfl
@[simp] theorem emitDr_cfg (f : Frame) (s : State) : (s.emitDr f).cfg = s.cfg := rfl
@[simp] theorem emitDr_pending (f : Frame) (s : State) : (s.emitDr f).pending = s.pending := rfl
@[simp] theorem emitDr_emitted (f : Frame) (s : State) : (s.emitDr f).emitted = s.emitted := rfl

@[simp] theorem emitIr_tap (f : Frame) (s : State) : (s.emitIr f).tap = s.tap := rfl
@[simp] theorem emitIr_drTt (f : Frame) (s : State) : (s.emitIr f).drTt = s.drTt := rfl
@[simp] theorem emitIr_drTh (f : Frame) (s : State) : (s.emitIr f).drTh = s.drTh := rfl
@[simp] theorem emitIr_irTt (f : Frame) (s : State) : (s.emitIr f).irTt = s.irTt := rfl
@[simp] theorem emitIr_irTh (f : Frame) (s : State) : (s.emitIr f).irTh = s.irTh := rfl
@[simp] theorem emitIr_fault (f : Frame) (s : State) : (s.emitIr f).fault = s.fault := rfl
@[simp] theorem emitIr_event (f : Frame) (s : State) : (s.emitIr f).event = some ⟨f.tStart, f.tEnd, .ir, val s.irTt, val s.irTh, none⟩ := rfl
@[simp] theorem emitIr_cfg (f : Frame) (s : State) : (s.emitIr f).cfg = s.cfg := rfl
@[simp] theorem emitIr_pending (f : Frame) (s : State) : (s.emitIr f).pending = s.pending := rfl
@[simp] theorem emitIr_emitted (f : Frame) (s : State) : (s.emitIr f).emitted = s.emitted := rfl

@[simp] theorem writeName_tap (name : InstrName) (s : State) : (s.writeName name).tap = s.tap := rfl
@[simp] theorem writeName_drTt (name : InstrName) (s : State) : (s.writeName name).drTt = s.drTt := rfl
@[simp] theorem writeName_drTh (name : InstrName) (s : State) : (s.writeName name).drTh = s.drTh := rfl
@[simp] theorem writeName_irTt (name : InstrName) (s : State) : (s.writeName name).irTt = s.irTt := rfl
@[simp] theorem writeName_irTh (name : InstrName) (s : State) : (s.writeName name).irTh = s.irTh := rfl
@[simp] theorem writeName_fault (name : InstrName) (s : State) : (s.writeName name).fault = s.fault := rfl
@[simp] theorem writeName_event (name : InstrName) (s : State) : (s.writeName name).event = s.event.map (nameEvent name) := rfl
@[simp] theorem writeName_cfg (name : InstrName) (s : State) : (s.writeName name).cfg = s.cfg := rfl
@[simp] theorem writeName_pending (name : InstrName) (s : State) : (s.writeName name).pending = s.pending := rfl
@[simp] theorem writeName_emitted (name : InstrName) (s : State) : (s.writeName name).emitted = s.emitted := rfl

@[simp] theorem takeFault_tap (cause : Fault) (s : State) : (s.takeFault cause).tap = s.tap := rfl
@[simp] theorem takeFault_drTt (cause : Fault) (s : State) : (s.takeFault cause).drTt = s.drTt := rfl
@[simp] theorem takeFault_drTh (cause : Fault) (s : State) : (s.takeFault cause).drTh = s.drTh := rfl
@[simp] theorem takeFault_irTt (cause : Fault) (s : State) : (s.takeFault cause).irTt = s.irTt := rfl
@[simp] theorem takeFault_irTh (cause : Fault) (s : State) : (s.takeFault cause).irTh = s.irTh := rfl
@[simp] theorem takeFault_fault (cause : Fault) (s : State) : (s.takeFault cause).fault = some cause := rfl
@[simp] theorem takeFault_event (cause : Fault) (s : State) : (s.takeFault cause).event = none := rfl
@[simp] theorem takeFault_cfg (cause : Fault) (s : State) : (s.takeFault cause).cfg = s.cfg := rfl
@[simp] theorem takeFault_pending (cause : Fault) (s : State) : (s.takeFault cause).pending = s.pending := rfl
@[simp] theorem takeFault_emitted (cause : Fault) (s : State) : (s.takeFault cause).emitted = s.emitted := rfl

@[simp] theorem applyReset_tap (s : State) : s.applyReset.tap = 1 := rfl
@[simp] theorem applyReset_drTt (s : State) : s.applyReset.drTt = [] := rfl
@[simp] theorem applyReset_drTh (s : State) : s.applyReset.drTh = [] := rfl
@[simp] theorem applyReset_irTt (s : State) : s.applyReset.irTt = [] := rfl
@[simp] theorem applyReset_irTh (s : State) : s.applyReset.irTh = [] := rfl
@[simp] theorem applyReset_fault (s : State) : s.applyReset.fault = none := rfl
@[simp] theorem applyReset_event (s : State) : s.applyReset.event = none := rfl
@[simp] theorem applyReset_cfg (s : State) : s.applyReset.cfg = s.cfg := rfl
@[simp] theorem applyReset_pending (s : State) : s.applyReset.pending = s.pending := rfl
@[simp] theorem applyReset_emitted (s : State) : s.applyReset.emitted = s.emitted := rfl

@[simp] theorem consume_tap (rest : List Input) (s : State) : (s.consume rest).tap = s.tap := rfl
@[simp] theorem consume_drTt (rest : List Input) (s : State) : (s.consume rest).drTt = s.drTt := rfl
@[simp] theorem consume_drTh (rest : List Input) (s : State) : (s.consume rest).drTh = s.drTh := rfl
@[simp] theorem consume_irTt (rest : List Input) (s : State) : (s.consume rest).irTt = s.irTt := rfl
@[simp] theorem consume_irTh (rest : List Input) (s : State) : (s.consume rest).irTh = s.irTh := rfl
@[simp] theorem consume_fault (rest : List Input) (s : State) : (s.consume rest).fault = s.fault := rfl
@[simp] theorem consume_event (rest : List Input) (s : State) : (s.consume rest).event = s.event := rfl
@[simp] theorem consume_cfg (rest : List Input) (s : State) : (s.consume rest).cfg = s.cfg := rfl
@[simp] theorem consume_pending (rest : List Input) (s : State) : (s.consume rest).pending = rest := rfl
@[simp] theorem consume_emitted (rest : List Input) (s : State) : (s.consume rest).emitted = s.emitted := rfl

@[simp] theorem deliver_tap (s : State) : s.deliver.tap = s.tap := rfl
@[simp] theorem deliver_drTt (s : State) : s.deliver.drTt = s.drTt := rfl
@[simp] theorem deliver_drTh (s : State) : s.deliver.drTh = s.drTh := rfl
@[simp] theorem deliver_irTt (s : State) : s.deliver.irTt = s.irTt := rfl
@[simp] theorem deliver_irTh (s : State) : s.deliver.irTh = s.irTh := rfl
@[simp] theorem deliver_fault (s : State) : s.deliver.fault = s.fault := rfl
@[simp] theorem deliver_event (s : State) : s.deliver.event = s.event := rfl
@[simp] theorem deliver_cfg (s : State) : s.deliver.cfg = s.cfg := rfl
@[simp] theorem deliver_pending (s : State) : s.deliver.pending = s.pending := rfl
@[simp] theorem deliver_emitted (s : State) : s.deliver.emitted = s.emitted ++ s.event.toList := rfl

end Sys2Proof.Machine
end

