-- ==== Sys2Proof/Laws/Step.lean ====
section
/-! SUPPORT. What the instructions and a step can do, said once. -/

namespace Sys2Proof.Machine

@[simp] theorem nameEvent_ir {e : Event} (h : e.kind = .ir) (n : InstrName) :
    nameEvent n e = { e with instruction := some n } := by
  simp [nameEvent, h]

@[simp] theorem nameEvent_dr {e : Event} (h : e.kind = .dr) (n : InstrName) : nameEvent n e = e := by
  simp [nameEvent, h]

@[simp] theorem runFetched_ok (i : Instr) (s : State) : runFetched (.ok i) s = deliverOutcome (exec i s) := rfl

@[simp] theorem runFetched_error (r : Reject) (s : State) :
    runFetched (.error r) s = .next (s.takeFault (faultOf r)) := rfl

/-- A decode entry writes its name. -/
theorem runEntry_eq (v : Nat) (n : InstrName) (s : State) : runEntry v n s = .next (s.writeName n) := by
  cases n <;> rfl

/-- IR.UPDATE: the event with the decoded name (41_shift_accumulator.md R117). -/
theorem execIrUpdateUpdIr_eq (f : Frame) (s : State) :
    execIrUpdateUpdIr f s =
      .next (((s.advance .updIr f.c).emitIr f).writeName (decodeName (val s.irTt))) :=
  runEntry_eq _ _ _

theorem drFull_iff (s : State) :
    s.drFull = true ↔ s.cfg.bufMax = some s.drTt.length ∨ s.cfg.bufMax = some s.drTh.length := by
  simp [State.drFull, fieldFull_iff]

theorem irFull_iff (s : State) :
    s.irFull = true ↔ s.cfg.bufMax = some s.irTt.length ∨ s.cfg.bufMax = some s.irTh.length := by
  simp [State.irFull, fieldFull_iff]

/-- The effect on the block of the action that a pre-transition state selects (41_shift_accumulator.md R111), on the
state whose `tap` is written. -/
theorem exec_frameInstr_cases (p : TapState) (f : Frame) (s : State) :
    exec (frameInstr p f) s =
      match p with
      | .capDr => .next (s.advance .capDr f.c).clearDr
      | .shDr => if s.drFull then .next (s.takeFault (.capacityExceeded .shDr))
          else .next ((s.advance .shDr f.c).shiftDr f.t f.h)
      | .updDr => .next ((s.advance .updDr f.c).emitDr f)
      | .capIr => .next (s.advance .capIr f.c).clearIr
      | .shIr => if s.irFull then .next (s.takeFault (.capacityExceeded .shIr))
          else .next ((s.advance .shIr f.c).shiftIr f.t f.h)
      | .updIr => .next (((s.advance .updIr f.c).emitIr f).writeName (decodeName (val s.irTt)))
      | q => .next (s.advance q f.c) := by
  cases p <;> first | rfl | exact execIrUpdateUpdIr_eq f s

/-- What a step can do, when it answers a next state: nothing without an input; a reset; nothing on a frame while the
block is halted; or the instruction of the frame, its event delivered. -/
theorem step_cases {s t : State} (h : step s = .next t) :
    (s.pending = [] ∧ t = s.noEvent) ∨
    (∃ rest, s.pending = .rst :: rest ∧ t = (s.consume rest).applyReset) ∨
    (∃ f rest, s.pending = .frame f :: rest ∧ s.fault ≠ none ∧ t = (s.consume rest).noEvent) ∨
    (∃ f rest p u, s.pending = .frame f :: rest ∧ s.fault = none ∧ s.tap = TapState.code p ∧
      exec (frameInstr p f) (s.consume rest) = .next u ∧ t = u.deliver) := by
  unfold step at h
  split at h
  · exact .inl ⟨‹_›, by cases h; rfl⟩
  · exact .inr (.inl ⟨_, ‹_›, by cases h; rfl⟩)
  · rename_i f rest hp
    split at h
    · rename_i c hc
      exact .inr (.inr (.inl ⟨f, rest, hp, by simp [hc], by cases h; rfl⟩))
    · rename_i hf
      obtain ⟨p, hpc⟩ := exists_state_of_code s.tap
      rw [fetch_eq hpc.symm, runFetched_ok] at h
      refine .inr (.inr (.inr ⟨f, rest, p, ?_⟩))
      cases hx : exec (frameInstr p f) (s.consume rest) with
      | next u =>
        simp only [hx, deliverOutcome] at h
        exact ⟨u, hp, hf, hpc.symm, rfl, by cases h; rfl⟩
      | fault r => simp [hx, deliverOutcome] at h
      | refused r => simp [hx, deliverOutcome] at h

/-- A running block takes a frame by running the instruction of its state. -/
theorem step_frame {s : State} {f : Frame} {rest : List Input} {p : TapState}
    (hp : s.pending = .frame f :: rest) (hf : s.fault = none) (ht : s.tap = p.code) :
    step s = deliverOutcome (exec (frameInstr p f) (s.consume rest)) := by
  unfold step
  rw [hp]
  simp only [hf, fetch_eq ht, runFetched_ok]

end Sys2Proof.Machine
end

