-- ==== Sys2Proof/Laws/Run.lean ====
section
/-! SUPPORT. Runs of several steps. -/

namespace Sys2Proof.Machine

@[simp] theorem runSteps_zero (s : State) : runSteps 0 s = .next s := rfl

/-- A run of `k + 1` steps is a step and a run of `k` steps. -/
theorem runSteps_succ {s t : State} (h : step s = .next t) (k : Nat) :
    runSteps (k + 1) s = runSteps k t := by
  have hs : Sys2Proof.core.step s = .next t := h
  simp only [runSteps, Host.Core.run, hs]
  rfl

/-- A run of `k + m` steps is a run of `k` steps and a run of `m` steps. -/
theorem runSteps_add {s t : State} {k : Nat} (h : runSteps k s = .next t) (m : Nat) :
    runSteps (k + m) s = runSteps m t := by
  induction k generalizing s with
  | zero => cases h; simp
  | succ k ih =>
    have hk : k + 1 + m = (k + m) + 1 := by omega
    rw [hk]
    simp only [runSteps, Host.Core.run] at h ⊢
    cases hs : Sys2Proof.core.step s with
    | next u =>
      rw [hs] at h
      exact ih h
    | fault r => rw [hs] at h; cases h
    | refused r => rw [hs] at h; cases h

/-- A run that answers a next state begins with a step that does. -/
theorem runSteps_succ_inv {s t : State} {k : Nat} (h : runSteps (k + 1) s = .next t) :
    ∃ u, step s = .next u ∧ runSteps k u = .next t := by
  simp only [runSteps, Host.Core.run] at h
  cases hs : Sys2Proof.core.step s with
  | next u => exact ⟨u, hs, by rw [hs] at h; exact h⟩
  | fault r => rw [hs] at h; cases h
  | refused r => rw [hs] at h; cases h

end Sys2Proof.Machine
end

