-- ==== Sys2Proof/Laws/TimeType.lean ====
section
/-! SUPPORT. The lemmas of the block over a time type. -/

namespace Sys2Proof

@[simp] theorem retag_tokens {Time Time' : Type} (g : Time → Time') (f : FrameOf Time) :
    (f.retag g).tokens = f.tokens := rfl

/-- A token of a renamed frame stands for the renamed tag. -/
theorem tagOf_retag {Time Time' : Type} (g : Time → Time') (f : FrameOf Time) (token : NatTime) :
    (f.retag g).tagOf token = g (f.tagOf token) := by
  cases token <;> rfl

/-- The tokens, read back, give the frame. -/
theorem tokens_retag_tagOf {Time : Type} (f : FrameOf Time) : f.tokens.retag f.tagOf = f := rfl

end Sys2Proof

namespace Sys2Proof.Machine

@[simp] theorem facing_block (b : Block) (inputs : List Input) : (b.facing inputs).block = b := rfl
@[simp] theorem facing_pending (b : Block) (inputs : List Input) : (b.facing inputs).pending = inputs := rfl
@[simp] theorem facing_emitted (b : Block) (inputs : List Input) : (b.facing inputs).emitted = [] := rfl
@[simp] theorem noEvent_block (s : State) : s.noEvent.block = s.block := rfl
@[simp] theorem consume_block (rest : List Input) (s : State) : (s.consume rest).block = s.block := rfl
@[simp] theorem deliver_block (s : State) : s.deliver.block = s.block := rfl

@[simp] theorem inputTokens_retag {Time Time' : Type} (g : Time → Time') (i : InputOf Time) :
    inputTokens (i.retag g) = inputTokens i := by
  cases i <;> rfl

theorem eventTags_retag {Time Time' : Type} (g : Time → Time') (i : InputOf Time) (e : Option Event) :
    eventTags (i.retag g) e = (eventTags i e).map (EventOf.retag g) := by
  cases i with
  | rst => rfl
  | frame f => cases e with
    | none => rfl
    | some e => simp [eventTags, InputOf.retag, EventOf.retag, tagOf_retag]

/-- A step over a time type is the step on the tokens, read back. -/
theorem stepOver_next {Time : Type} {i : InputOf Time} {b : Block} {t : State}
    (h : step (b.facing [inputTokens i]) = .next t) :
    stepOver Time i b = .next (t.block, eventTags i t.event) := by
  simp only [stepOver, h]

/-- What a run over a time type does with its first input. -/
theorem runOver_cons {Time : Type} {i : InputOf Time} {b b' b'' : Block} {e : Option (EventOf Time)}
    {rest : List (InputOf Time)} {es : List (EventOf Time)}
    (h : stepOver Time i b = .next (b', e)) (hr : runOver Time rest b' = .next (b'', es)) :
    runOver Time (i :: rest) b = .next (b'', e.toList ++ es) := by
  simp only [runOver, h, hr]

end Sys2Proof.Machine
end

