-- ==== Sys2Proof/Tests/Slice0.lean ====
section
/-! SUPPORT. Tests and witnesses. Every expected value is the spec's own: the vectors and programs of
95_test_vectors.md, cited by name, or the rule named. The witnesses at the end show, for each statement that has
hypotheses, a concrete state and operands that meet all of them together. -/

namespace Sys2Proof.Tests

open Sys2Proof.Machine

/-- A frame `cth` with the interval `[6, 7)`. -/
def fr (c t h : Nat) : Frame :=
  { tStart := 6, tEnd := 7, c := c == 1, t := t == 1, h := h == 1 }

/-- Bits from their digits, front first. -/
def bs (digits : List Nat) : Bits :=
  digits.map fun d => d == 1

/-- A running block in a state, its fields as given, with frames presented. -/
def at' (tap : StateCode) (drTt drTh irTt irTh : List Nat) (fs : List Frame) : State :=
  { State.reset with tap := tap, drTt := bs drTt, drTh := bs drTh, irTt := bs irTt, irTh := bs irTh,
                     pending := fs.map InputOf.frame }

/-- The same block in an instance of a capacity. -/
def within (n : Nat) (s : State) : State :=
  { s with cfg := { bufMax := some n } }

/-- The outcome is a next state that passes a check. -/
def after (o : Host.Outcome State Fault Refusal) (check : State → Bool) : Bool :=
  match o with
  | .next t => check t
  | .fault _ => false
  | .refused _ => false

/-- The block's four fields. -/
def fields (s : State) : Bits × Bits × Bits × Bits :=
  (s.drTt, s.drTh, s.irTt, s.irTh)

/-- The `tap` codes that a 0 frame and a 1 frame lead to from a code. -/
def moves (tap zero one : StateCode) : Bool :=
  after (step (at' tap [] [] [] [] [fr 0 0 0])) (fun t => t.tap == zero) &&
  after (step (at' tap [] [] [] [] [fr 1 0 0])) (fun t => t.tap == one)

/-- The name that an UPDATE-IR frame reports for an IR to-target field. -/
def reports (irTt : List Nat) (v : Nat) (n : InstrName) : Bool :=
  after (step (at' 15 [] [] irTt [] [fr 0 0 0])) fun t =>
    t.event == some { tStart := 6, tEnd := 7, kind := .ir, toTarget := v, toHost := 0, instruction := some n }

/-! ### Well-formedness refuses an ill-formed term -/

theorem test_wf_refuses_the_fallback_of_a_listed_value : (Instr.unknown 0x83).wf = false := by decide
theorem test_wf_refuses_the_fallback_of_the_last_entry : (Instr.unknown 0x61).wf = false := by decide
theorem test_wf_accepts_the_fallback_of_an_unlisted_value : (Instr.unknown 0xAB).wf = true := by decide

/-! ### Decoding, each word written out from the encoding (30_encoding.md R62, R63, R67, R68) -/

theorem test_decode_nopTlr : decode (.frame 0b0000100 0 1) = .ok (.nopTlr ⟨0, 1, true, false, false⟩) := by decide
theorem test_decode_nopRti : decode (.frame 0b0001010 0 1) = .ok (.nopRti ⟨0, 1, false, true, false⟩) := by decide
theorem test_decode_nopSelDr : decode (.frame 0b0010001 0 1) = .ok (.nopSelDr ⟨0, 1, false, false, true⟩) := by decide
theorem test_decode_drClearCapDr :
    decode (.frame 0b0011110 2 3) = .ok (.drClearCapDr ⟨2, 3, true, true, false⟩) := by decide
theorem test_decode_drShiftShDr :
    decode (.frame 0b0100011 2 3) = .ok (.drShiftShDr ⟨2, 3, false, true, true⟩) := by decide
theorem test_decode_nopEx1Dr : decode (.frame 0b0101101 0 1) = .ok (.nopEx1Dr ⟨0, 1, true, false, true⟩) := by decide
theorem test_decode_nopPauDr : decode (.frame 0b0110111 0 1) = .ok (.nopPauDr ⟨0, 1, true, true, true⟩) := by decide
theorem test_decode_nopEx2Dr : decode (.frame 0b0111000 0 1) = .ok (.nopEx2Dr ⟨0, 1, false, false, false⟩) := by decide
theorem test_decode_drUpdateUpdDr :
    decode (.frame 0b1000100 6 7) = .ok (.drUpdateUpdDr ⟨6, 7, true, false, false⟩) := by decide
theorem test_decode_nopSelIr : decode (.frame 0b1001010 0 1) = .ok (.nopSelIr ⟨0, 1, false, true, false⟩) := by decide
theorem test_decode_irClearCapIr :
    decode (.frame 0b1010001 3 4) = .ok (.irClearCapIr ⟨3, 4, false, false, true⟩) := by decide
theorem test_decode_irShiftShIr :
    decode (.frame 0b1011110 3 4) = .ok (.irShiftShIr ⟨3, 4, true, true, false⟩) := by decide
theorem test_decode_nopEx1Ir : decode (.frame 0b1100011 0 1) = .ok (.nopEx1Ir ⟨0, 1, false, true, true⟩) := by decide
theorem test_decode_nopPauIr : decode (.frame 0b1101101 0 1) = .ok (.nopPauIr ⟨0, 1, true, false, true⟩) := by decide
theorem test_decode_nopEx2Ir : decode (.frame 0b1110111 0 1) = .ok (.nopEx2Ir ⟨0, 1, true, true, true⟩) := by decide
theorem test_decode_irUpdateUpdIr :
    decode (.frame 0b1111000 13 14) = .ok (.irUpdateUpdIr ⟨13, 14, false, false, false⟩) := by decide
theorem test_decode_irAddr16bit : decode (.irv 0x83) = .ok .irAddr16bit := by decide
theorem test_decode_irAddrCapture : decode (.irv 0x84) = .ok .irAddrCapture := by decide
theorem test_decode_irDataToAddr : decode (.irv 0x85) = .ok .irDataToAddr := by decide
theorem test_decode_irData16bit : decode (.irv 0x41) = .ok .irData16bit := by decide
theorem test_decode_irDataQuick : decode (.irv 0x43) = .ok .irDataQuick := by decide
theorem test_decode_irBypass : decode (.irv 0xFF) = .ok .irBypass := by decide
theorem test_decode_irCntrlSig16bit : decode (.irv 0x13) = .ok .irCntrlSig16bit := by decide
theorem test_decode_irCntrlSigCapture : decode (.irv 0x14) = .ok .irCntrlSigCapture := by decide
theorem test_decode_irCntrlSigRelease : decode (.irv 0x15) = .ok .irCntrlSigRelease := by decide
theorem test_decode_irDataPsa : decode (.irv 0x44) = .ok .irDataPsa := by decide
theorem test_decode_irShiftOutPsa : decode (.irv 0x46) = .ok .irShiftOutPsa := by decide
theorem test_decode_irPrepareBlow : decode (.irv 0x22) = .ok .irPrepareBlow := by decide
theorem test_decode_irExBlow : decode (.irv 0x24) = .ok .irExBlow := by decide
theorem test_decode_irJmbExchange : decode (.irv 0x61) = .ok .irJmbExchange := by decide
theorem test_decode_unknown : decode (.irv 0x183) = .ok (.unknown 0x183) := by decide
/-- No row of the table for a state field beyond 4 bits (60_exceptions.md R171). -/
theorem test_decode_refuses_a_state_of_16 : decode (.frame 0b10000000 0 1) = .error (.stateOutside 16) := by decide

/-! ### Every transition: V-FSM-1 to V-FSM-32 -/

theorem test_moves_tlr : moves 0 1 0 = true := by decide
theorem test_moves_rti : moves 1 1 2 = true := by decide
theorem test_moves_selDr : moves 2 3 9 = true := by decide
theorem test_moves_capDr : moves 3 4 5 = true := by decide
theorem test_moves_shDr : moves 4 4 5 = true := by decide
theorem test_moves_ex1Dr : moves 5 6 8 = true := by decide
theorem test_moves_pauDr : moves 6 6 7 = true := by decide
theorem test_moves_ex2Dr : moves 7 4 8 = true := by decide
theorem test_moves_updDr : moves 8 1 2 = true := by decide
theorem test_moves_selIr : moves 9 10 0 = true := by decide
theorem test_moves_capIr : moves 10 11 12 = true := by decide
theorem test_moves_shIr : moves 11 11 12 = true := by decide
theorem test_moves_ex1Ir : moves 12 13 15 = true := by decide
theorem test_moves_pauIr : moves 13 13 14 = true := by decide
theorem test_moves_ex2Ir : moves 14 11 15 = true := by decide
theorem test_moves_updIr : moves 15 1 2 = true := by decide

/-! ### The actions: V-ACC -/

/-- V-ACC-1. -/
theorem test_capture_dr_clears_dr_only :
    after (step (at' 3 [1, 1, 0] [0] [1] [] [fr 0 1 1])) (fun t => fields t == ([], [], [true], [])) = true := by
  decide
/-- V-ACC-4. -/
theorem test_shift_dr_on_the_leaving_frame :
    after (step (at' 4 [1] [1] [] [] [fr 1 0 1]))
      (fun t => t.tap == 5 && fields t == (bs [1, 0], bs [1, 1], [], [])) = true := by decide
/-- V-ACC-5. -/
theorem test_shift_dr_prepends_to_host :
    after (step (at' 4 [0, 0] [0, 0] [] [] [fr 0 1 1]))
      (fun t => val t.drTt == 1 && val t.drTh == 4) = true := by decide
/-- V-ACC-7. -/
theorem test_update_dr_emits_and_keeps_the_fields :
    after (step (at' 8 [1, 0] [1, 1] [] [] [fr 1 1 1])) (fun t =>
      t.event == some ⟨6, 7, .dr, 2, 3, none⟩ && fields t == (bs [1, 0], bs [1, 1], [], [])) = true := by decide
/-- V-ACC-9, its first frame. -/
theorem test_capture_ir_clears_ir_only :
    after (step (at' 10 [1] [] [1, 1] [] [fr 1 0 0])) (fun t => fields t == ([true], [], [], [])) = true := by decide
/-- V-ACC-10. -/
theorem test_shift_ir_prepends_to_target :
    after (step (at' 11 [] [] [0, 0] [0, 0] [fr 0 1 0]))
      (fun t => val t.irTt == 4 && t.irTh == bs [0, 0, 0]) = true := by decide
/-- V-ACC-11. -/
theorem test_shift_ir_on_the_leaving_frame :
    after (step (at' 11 [] [] [1] [0] [fr 1 1 0])) (fun t => fields t == ([], [], bs [1, 1], bs [0, 0])) = true := by
  decide
/-- V-ACC-12. -/
theorem test_pause_ignores_its_data_bits :
    after (step (at' 6 [1, 1] [] [] [] [fr 0 1 1])) (fun t => fields t == (bs [1, 1], [], [], [])) = true := by decide
/-- V-ACC-13. -/
theorem test_exit2_ignores_its_data_bits :
    after (step (at' 7 [1, 1] [0, 0] [] [] [fr 0 1 1]))
      (fun t => fields t == (bs [1, 1], bs [0, 0], [], [])) = true := by decide
/-- V-ACC-14. -/
theorem test_test_logic_reset_clears_nothing :
    after (step (at' 0 [1] [] [1, 0] [] [fr 1 1 1])) (fun t => fields t == ([true], [], bs [1, 0], [])) = true := by
  decide
/-- V-ACC-16. -/
theorem test_select_ignores_its_data_bits :
    after (step (at' 2 [1] [] [] [] [fr 0 1 1])) (fun t => fields t == ([true], [], [], [])) = true := by decide

/-! ### The names that IR.UPDATE reports: V-DEC, the field front first -/

theorem test_reports_irAddr16bit : reports [1, 0, 0, 0, 0, 0, 1, 1] 0x83 .irAddr16bit = true := by decide
theorem test_reports_irAddrCapture : reports [1, 0, 0, 0, 0, 1, 0, 0] 0x84 .irAddrCapture = true := by decide
theorem test_reports_irDataToAddr : reports [1, 0, 0, 0, 0, 1, 0, 1] 0x85 .irDataToAddr = true := by decide
theorem test_reports_irData16bit : reports [0, 1, 0, 0, 0, 0, 0, 1] 0x41 .irData16bit = true := by decide
theorem test_reports_irDataQuick : reports [0, 1, 0, 0, 0, 0, 1, 1] 0x43 .irDataQuick = true := by decide
theorem test_reports_irBypass : reports [1, 1, 1, 1, 1, 1, 1, 1] 0xFF .irBypass = true := by decide
/-- V-DEC-21: 5 bits. -/
theorem test_reports_irCntrlSig16bit : reports [1, 0, 0, 1, 1] 0x13 .irCntrlSig16bit = true := by decide
theorem test_reports_irCntrlSigCapture : reports [0, 0, 0, 1, 0, 1, 0, 0] 0x14 .irCntrlSigCapture = true := by decide
theorem test_reports_irCntrlSigRelease : reports [0, 0, 0, 1, 0, 1, 0, 1] 0x15 .irCntrlSigRelease = true := by decide
theorem test_reports_irDataPsa : reports [0, 1, 0, 0, 0, 1, 0, 0] 0x44 .irDataPsa = true := by decide
theorem test_reports_irShiftOutPsa : reports [0, 1, 0, 0, 0, 1, 1, 0] 0x46 .irShiftOutPsa = true := by decide
theorem test_reports_irPrepareBlow : reports [0, 0, 1, 0, 0, 0, 1, 0] 0x22 .irPrepareBlow = true := by decide
theorem test_reports_irExBlow : reports [0, 0, 1, 0, 0, 1, 0, 0] 0x24 .irExBlow = true := by decide
theorem test_reports_irJmbExchange : reports [0, 1, 1, 0, 0, 0, 0, 1] 0x61 .irJmbExchange = true := by decide
/-- V-FLT-8. -/
theorem test_reports_unknown : reports [1, 0, 1, 0, 1, 0, 1, 1] 0xAB .unknown = true := by decide
/-- V-DEC-19 and V-DEC-15. -/
theorem test_reports_unknown_beyond_8_bits_and_for_no_bits :
    (reports [1, 1, 0, 0, 0, 0, 0, 1, 1] 0x183 .unknown && reports [] 0 .unknown) = true := by decide

/-! ### Faults, halting and reset: V-FLT -/

/-- The block of V-FLT-1, with a frame that faults and then another. -/
def fullDr : State := within 2 (at' 4 [1, 0] [1, 1] [] [] [fr 1 1 0, fr 1 0 0])

/-- The same block once halted, a frame presented to it. -/
def haltedDr : State :=
  { within 2 (at' 4 [1, 0] [1, 1] [] [] [fr 1 0 0]) with fault := some (.capacityExceeded .shDr) }

/-- V-FLT-1. -/
theorem test_full_shift_dr_faults :
    after (step fullDr) (fun t => t.faultPort == 2 && t.tap == 4 && fields t == fields fullDr) = true := by decide
/-- V-FLT-2. -/
theorem test_last_accepted_shift_dr :
    after (step (within 2 (at' 4 [1] [1] [] [] [fr 1 1 0])))
      (fun t => t.fault == none && fields t == (bs [1, 1], bs [0, 1], [], [])) = true := by decide
/-- V-FLT-3. -/
theorem test_full_shift_ir_faults :
    after (step (within 2 (at' 11 [] [] [1, 1] [0, 0] [fr 0 0 0])))
      (fun t => t.fault == some (.capacityExceeded .shIr) && t.event == none) = true := by decide
/-- V-FLT-4. -/
theorem test_halted_block_takes_no_step :
    after (step haltedDr) (fun t => t.fault == haltedDr.fault && t.tap == 4) = true := by decide
/-- V-FLT-5. -/
theorem test_reset_leaves_the_halt :
    after (step { haltedDr with pending := [.rst] })
      (fun t => t.fault == none && t.tap == 1 && fields t == ([], [], [], [])) = true := by decide
/-- V-FLT-6, for the natural-number state the rule speaks of. -/
theorem test_state_16_is_an_invalid_state :
    decode (frameWord 16 (fr 0 0 0)) = .error (.stateOutside 16) ∧
    after (runFetched (decode (frameWord 16 (fr 0 0 0))) (at' 4 [1] [1] [] [] [])) (fun t =>
      t.fault == some (.invalidState 16) && t.faultPort == 1 && t.tap == 4 && t.event == none) = true := by decide

/-! ### Another time type (00_scope.md R8) -/

/-- V-ACC-7, with integer tags in place of its interval. -/
theorem test_integer_tags_are_copied :
    (match stepOver Int (.frame ⟨-3, 9, true, true, true⟩) (at' 8 [1, 0] [1, 1] [] [] []).block with
    | .next (b, e) => b.tap == 2 && e == some ⟨-3, 9, .dr, 2, 3, none⟩
    | .fault _ => false
    | .refused _ => false) = true := by decide

/-! ### The macros and the two bit orders -/

/-- L1.3: the frames of SCAN_DR(1101; 1101) and SCAN_IR(1101; 1101). -/
theorem test_scan_macros_expand :
    let b := (true, true)
    let z := (false, false)
    let shifts := [(false, true, true), (false, true, true), (false, false, false), (true, true, true), one, zero]
    scanDr [b, b, z, b] = [one, zero, zero] ++ shifts ∧
    scanIr b [b, z, b] = [one, one, zero, zero] ++ shifts := by decide
/-- L1.3: 0xD with the first bit most significant, 0xB with it least significant. -/
theorem test_bit_orders : msbFirstSum (bs [1, 1, 0, 1]) = 0xD ∧ lsbFirstSum (bs [1, 1, 0, 1]) = 0xB := by decide

/-! ### The fixed names: a table word is read and run as the first instruction after reset -/

theorem test_table_word_is_run_first :
    decodeTableWord 8 0b0100000 = some (.drShiftShDr ⟨0, 0, false, false, false⟩) ∧
    after (step (State.reset.withFetchWord 8 0b0100000)) (fun t => t.tap == 4 && t.drTt == [false]) = true := by
  decide
theorem test_table_value_is_run_first :
    decodeTableWord 8 0x83 = some .irAddr16bit ∧
    after (step (State.reset.withFetchWord 8 0x83))
      (fun t => t.event == some ⟨0, 0, .ir, 0x83, 0, some .irAddr16bit⟩) = true := by decide

/-! ### Witnesses: every statement's hypotheses are met somewhere, together -/

/-- A running block in each of the 16 states takes a frame; no bound, so both shifts have room (the state rules). -/
theorem witness_every_state_runs_a_frame :
    ∀ p : TapState, ∃ (s : State) (f : Frame) (rest : List Input), s.fault = none ∧ s.tap = p.code ∧
      s.pending = .frame f :: rest ∧ hasRoom s.cfg.bufMax s.drTt ∧ hasRoom s.cfg.bufMax s.irTt :=
  fun p => ⟨at' p.code [1] [0] [1] [1] [fr 1 1 0], fr 1 1 0, [], rfl, rfl, rfl,
    by simp [hasRoom, at', State.reset, Config.reference], by simp [hasRoom, at', State.reset, Config.reference]⟩

/-- One bit below the capacity both fields of a shift have room; at the capacity they have not. -/
theorem witness_room_below_and_none_at_the_capacity :
    (hasRoom (some 2) [true] ∧ hasRoom (some 2) [false]) ∧ ¬(hasRoom (some 2) [true, false] ∧ hasRoom (some 2) [true]) ∧
    ¬(hasRoom (some 0) [] ∧ hasRoom (some 0) []) := by
  simp [hasRoom]

/-- A running block in SHIFT-DR and one in SHIFT-IR at the capacity take a frame (the faulting clauses). -/
theorem witness_full_shifts :
    (¬(hasRoom fullDr.cfg.bufMax fullDr.drTt ∧ hasRoom fullDr.cfg.bufMax fullDr.drTh) ∧ fullDr.fault = none ∧
      fullDr.tap = 4 ∧ ∃ f rest, fullDr.pending = .frame f :: rest) ∧
    ∃ s : State, ¬(hasRoom s.cfg.bufMax s.irTt ∧ hasRoom s.cfg.bufMax s.irTh) ∧ s.fault = none ∧ s.tap = 11 ∧
      ∃ f rest, s.pending = .frame f :: rest :=
  ⟨⟨by simp [hasRoom, fullDr, within, at', bs], rfl, rfl, _, _, rfl⟩,
    within 2 (at' 11 [] [] [1, 1] [0, 0] [fr 0 0 0]), by simp [hasRoom, within, at', bs], rfl, rfl, _, _, rfl⟩

/-- UPDATE-IR with a listed value, with an unlisted one and with the empty field (the decode entries). -/
theorem witness_ir_values :
    val (at' 15 [] [] [1, 0, 0, 0, 0, 0, 1, 1] [] []).irTt = 0x83 ∧
    val (at' 15 [] [] [0, 1, 1, 0, 0, 0, 0, 1] [] []).irTt = 0x61 ∧
    decodeName (val (at' 15 [] [] [1, 1, 0, 0, 0, 0, 0, 1] [] []).irTt) = .unknown ∧
    decodeName (val State.reset.irTt) = .unknown ∧ true ∈ bs [0, 1] ∧ (∀ row ∈ irTable, row.1 ≠ 0xAB) ∧
    decode (.irv (val (at' 15 [] [] [1, 0, 0, 0, 0, 0, 1, 1] [] []).irTt)) = .ok .irAddr16bit := by
  decide

/-- Every one of the 14 keys is the value of an 8-bit field, front first. -/
theorem witness_every_key_is_a_field :
    ∀ row ∈ irTable, val (bitsOf 8 row.1) = row.1 := by decide

/-- Words at both ends of the legal range and the first beyond it; well-formed instructions of both formats. -/
theorem witness_words :
    (127 < 128 ∧ 128 ≤ 128) ∧ (Instr.nopTlr (fr 0 0 0)).wf = true ∧ Instr.irBypass.wf = true ∧
    (Instr.unknown 0x100).wf = true ∧ decode (.frame 127 0 0) = .ok (.irUpdateUpdIr ⟨0, 0, true, true, true⟩) ∧
    decode (.irv 0) = .ok (.unknown 0) := by
  decide

/-- A running block with a frame, its word decoding to an instruction (a step runs the decoded instruction). -/
theorem witness_step_runs_decoded :
    ∃ (s : State) (f : Frame) (rest : List Input) (i : Instr), s.pending = .frame f :: rest ∧ s.fault = none ∧
      decode (frameWord s.tap.toNat f) = .ok i :=
  ⟨at' 4 [1] [1] [] [] [fr 1 0 1], fr 1 0 1, [], .drShiftShDr (fr 1 0 1), by decide⟩

/-- A block without an input. -/
theorem witness_idle : State.reset.pending = [] := rfl

/-- A halted block with a frame presented, and one that a reset leaves running. -/
theorem witness_halted :
    haltedDr.fault ≠ none ∧ haltedDr.pending = [fr 1 0 0].map InputOf.frame ++ [] ∧
    ∃ t, step { haltedDr with pending := [.rst] } = .next t ∧ t.fault = none :=
  ⟨by decide, by decide, _, rfl, rfl⟩

/-- A reset is next, in a running and in a halted block. -/
theorem witness_reset_is_next :
    (∃ rest, ({ State.reset with pending := [.rst] } : State).pending = .rst :: rest) ∧
    ∃ rest, ({ haltedDr with pending := [.rst, .frame (fr 0 0 0)] } : State).pending = .rst :: rest :=
  ⟨⟨_, rfl⟩, _, rfl⟩

/-- A step that takes a running block to a fault, in each shift state. -/
theorem witness_faulting_steps :
    (∃ t, fullDr.fault = none ∧ step fullDr = .next t ∧ t.fault ≠ none) ∧
    ∃ s t : State, s.fault = none ∧ step s = .next t ∧ t.fault ≠ none ∧ s.tap = 11 :=
  ⟨⟨_, rfl, rfl, by decide⟩,
    within 2 (at' 11 [] [] [1, 1] [0, 0] [fr 0 0 0]), _, rfl, rfl, by decide, rfl⟩

/-- A block halted by InvalidState stays so; a state value at the boundary is outside. -/
theorem witness_invalid_state :
    ∃ s t : State, step s = .next t ∧ t.fault = some (.invalidState 16) ∧ 16 ≤ 16 :=
  ⟨{ haltedDr with fault := some (.invalidState 16) }, _, rfl, rfl, by decide⟩

/-- A running block of the reference instance. -/
theorem witness_reference : State.reset.cfg.bufMax = none ∧ State.reset.fault = none := by decide

/-- A step that emits, from a running block: an `ir` and a `dr` event. -/
theorem witness_emitting_steps :
    (∃ t e, step (at' 15 [] [] [1] [0] [fr 0 0 0]) = .next t ∧ t.event = some e ∧ e.kind = .ir) ∧
    ∃ t e, step (at' 8 [1] [1] [] [] [fr 0 0 0]) = .next t ∧ t.event = some e ∧ e.kind = .dr :=
  ⟨⟨_, _, rfl, rfl, rfl⟩, _, _, rfl, rfl, rfl⟩

/-- Two running blocks of different contents with the same `tap` take frames with the same control bit. -/
theorem witness_equal_taps :
    ∃ (s s' t t' : State) (f f' : Frame) (rest rest' : List Input),
      s.fault = none ∧ s'.fault = none ∧ s.tap = s'.tap ∧ s.tap = TapState.code .shDr ∧ f.c = f'.c ∧
      s.pending = .frame f :: rest ∧ s'.pending = .frame f' :: rest' ∧
      step s = .next t ∧ step s' = .next t' ∧ t.fault = none ∧ t'.fault = none ∧ s.drTt ≠ s'.drTt :=
  ⟨at' 4 [1] [1] [] [] [fr 1 0 1], at' 4 [0] [1] [1] [] [fr 1 1 0], _, _, fr 1 0 1, fr 1 1 0, [], [],
    rfl, rfl, rfl, rfl, rfl, rfl, rfl, rfl, rfl, rfl, rfl, by decide⟩

/-- A frame next in a running and in a halted block (the writes and the event of a frame step). -/
theorem witness_frame_steps :
    (∃ (s t : State) (f : Frame) (rest : List Input), s.tap = TapState.code .updDr ∧ s.pending = .frame f :: rest ∧
      step s = .next t ∧ t.event.isSome = true) ∧
    ∃ (s t : State) (f : Frame) (rest : List Input), s.tap = TapState.code .shDr ∧ s.pending = .frame f :: rest ∧
      step s = .next t ∧ t.fault ≠ none :=
  ⟨⟨at' 8 [1] [1] [] [] [fr 0 0 0], _, _, _, rfl, rfl, rfl, rfl⟩, haltedDr, _, _, _, rfl, rfl, rfl, by decide⟩

/-- A stream in which an update state is passed, before a running block of the reference instance. -/
theorem witness_stream :
    ∃ (fs : List Frame) (s : State) (p : TapState) (rest : List Input), s.cfg.bufMax = none ∧ s.fault = none ∧
      s.tap = p.code ∧ s.pending = fs.map InputOf.frame ++ rest ∧ (preStates p fs).filter isUpdate = [.updDr] :=
  ⟨[fr 1 0 0, fr 1 0 0, fr 0 0 0], at' 5 [1] [1] [] [] [fr 1 0 0, fr 1 0 0, fr 0 0 0], .ex1Dr, [], by decide⟩

/-- Two steps of a run, one of them emitting (the output sequence). -/
theorem witness_run : ∃ t, runSteps 2 (at' 5 [1] [1] [] [] [fr 1 0 0, fr 1 0 0]) = .next t ∧ t.emitted ≠ [] :=
  ⟨_, rfl, by decide⟩

/-- A state with fields of equal lengths, in an instance at whose capacity one register's fields stand, takes a
step that answers next. -/
theorem witness_invariants : fullDr.evenFields ∧ fullDr.withinCapacity ∧ ∃ t, step fullDr = .next t := by
  refine ⟨by unfold State.evenFields; decide, fun n h => ?_, _, rfl⟩
  cases h
  decide

/-- An event of values at the top of the capacity. -/
theorem witness_event_at_the_capacity :
    ∃ (s t : State) (e : Event), s.withinCapacity ∧ s.cfg.bufMax = some 2 ∧ step s = .next t ∧ t.event = some e ∧
      e.toTarget = 3 := by
  refine ⟨within 2 (at' 8 [1, 1] [1, 0] [] [] [fr 0 0 0]), _, _, fun n h => ?_, rfl, rfl, rfl, by decide⟩
  cases h
  decide

/-- Five frames with `c = 1` before a running block of the reference instance. -/
theorem witness_five_ones :
    ∃ (s : State) (f : Frame) (rest : List Input), s.cfg.bufMax = none ∧ s.fault = none ∧ f.c = true ∧
      s.pending = [f, f, f, f, f].map InputOf.frame ++ rest ∧ s.tap = 4 :=
  ⟨at' 4 [1] [1] [] [] (List.replicate 5 (fr 1 1 0)), fr 1 1 0, [], by decide⟩

/-- A running block in TEST-LOGIC-RESET with ones presented; its fields are not empty. -/
theorem witness_test_logic_reset :
    ∃ (s : State) (f : Frame) (fs : List Frame) (rest : List Input), s.fault = none ∧ s.tap = 0 ∧
      s.pending = (f :: fs).map InputOf.frame ++ rest ∧ (∀ g ∈ f :: fs, g.c = true) ∧ s.drTt ≠ [] :=
  ⟨at' 0 [1] [1] [1] [0] [fr 1 1 1, fr 1 0 0], fr 1 1 1, [fr 1 0 0], [], by decide⟩

/-- A walk from outside each column into it. -/
theorem witness_walks :
    (drColumn .rti = false ∧ drLive (walk .rti [true, false, false]) = true) ∧
    (irColumn .rti = false ∧ irLive (walk .rti [true, true, false, true]) = true) ∧
    isUpdate .updDr = true ∧ isUpdate .updIr = true := by
  decide

/-- A state whose DR fields cannot be observed, and one whose IR fields cannot, each in the other's shift state. -/
theorem witness_unobservable :
    ((at' 11 [1] [1] [] [] [fr 0 0 0]).tap = TapState.code .shIr ∧ drLive .shIr = false) ∧
    ((at' 4 [] [] [1] [1] [fr 0 0 0]).tap = TapState.code .shDr ∧ irLive .shDr = false) := by
  decide

/-- A scan of two bits in an instance whose capacity is two, from each of the three starts; and a scan of none. -/
theorem witness_dr_scan :
    ∀ tap ∈ ([1, 8, 15] : List StateCode), ∃ (xs : List (Bit × Bit)) (s : State), s.fault = none ∧
      s.tap ∈ ([1, 8, 15] : List StateCode) ∧ (∀ n, s.cfg.bufMax = some n → xs.length ≤ n) ∧
      s.pending = (stampFrom 0 (scanDr xs)).map InputOf.frame ++ [] ∧ xs.length = 2 ∧ s.tap = tap :=
  fun tap h => ⟨[(true, false), (false, true)],
    within 2 (at' tap [1] [1] [1] [1] (stampFrom 0 (scanDr [(true, false), (false, true)]))), rfl, h,
    fun n e => by cases e; decide, by simp [within, at'], rfl, rfl⟩

theorem witness_empty_dr_scan :
    ∃ s : State, s.fault = none ∧ s.tap ∈ ([1, 8, 15] : List StateCode) ∧
      (∀ n, s.cfg.bufMax = some n → ([] : List (Bit × Bit)).length ≤ n) ∧
      s.pending = (stampFrom 0 (scanDr [])).map InputOf.frame ++ [] :=
  ⟨within 0 (at' 1 [] [] [] [] (stampFrom 0 (scanDr []))), rfl, by decide, fun _ _ => Nat.zero_le _, by decide⟩

theorem witness_ir_scan :
    ∀ tap ∈ ([1, 8, 15] : List StateCode), ∃ (x : Bit × Bit) (xs : List (Bit × Bit)) (s : State), s.fault = none ∧
      s.tap ∈ ([1, 8, 15] : List StateCode) ∧ (∀ n, s.cfg.bufMax = some n → xs.length + 1 ≤ n) ∧
      s.pending = (stampFrom 0 (scanIr x xs)).map InputOf.frame ++ [] ∧ s.tap = tap :=
  fun tap h => ⟨(true, false), [(false, true)],
    within 2 (at' tap [1] [1] [1] [1] (stampFrom 0 (scanIr (true, false) [(false, true)]))), rfl, h,
    fun n e => by cases e; decide, by simp [within, at'], rfl⟩

/-- A pause of one frame in EXIT1-DR and in EXIT1-IR. -/
theorem witness_pause :
    ∀ tap ∈ ([5, 12] : List StateCode), ∃ (s : State) (f g h : Frame) (fs : List Frame) (rest : List Input),
      s.fault = none ∧ s.pending = (f :: fs ++ [g, h]).map InputOf.frame ++ rest ∧ f.c = false ∧
      (∀ q ∈ fs, q.c = false) ∧ g.c = true ∧ h.c = false ∧ fs ≠ [] ∧ s.tap = tap :=
  fun tap _ => ⟨at' tap [1] [1] [1] [1] [fr 0 0 0, fr 0 1 1, fr 1 0 0, fr 0 1 0], fr 0 0 0, fr 1 0 0, fr 0 1 0,
    [fr 0 1 1], [], rfl, rfl, rfl, by decide, rfl, rfl, by decide, rfl⟩

/-- The same pause, the next frame in SHIFT with room for one bit more and for no second. -/
theorem witness_shift_after_a_pause :
    ∀ tap ∈ ([5, 12] : List StateCode), ∃ (s : State) (f g h q : Frame) (fs : List Frame) (later : List Input),
      s.fault = none ∧ s.pending = (f :: fs ++ [g, h]).map InputOf.frame ++ .frame q :: later ∧ f.c = false ∧
      (∀ p ∈ fs, p.c = false) ∧ g.c = true ∧ h.c = false ∧ hasRoom s.cfg.bufMax s.drTt ∧
      hasRoom s.cfg.bufMax s.drTh ∧ hasRoom s.cfg.bufMax s.irTt ∧ hasRoom s.cfg.bufMax s.irTh ∧ s.tap = tap :=
  fun tap _ => ⟨within 2 (at' tap [1] [1] [1] [1] [fr 0 0 0, fr 0 1 1, fr 1 0 0, fr 0 1 0, fr 1 0 1]), fr 0 0 0,
    fr 1 0 0, fr 0 1 0, fr 1 0 1, [fr 0 1 1], [], rfl, rfl, rfl, by decide, rfl, rfl,
    by simp [hasRoom, within, at', bs], by simp [hasRoom, within, at', bs], by simp [hasRoom, within, at', bs],
    by simp [hasRoom, within, at', bs], rfl⟩

/-- The frames of P3 from its CAPTURE-DR frame to the one before UPDATE-DR: three bits, split by a pause. -/
def pausedScan : List Frame :=
  [fr 0 1 0, fr 1 1 0, fr 0 0 0, fr 0 1 1, fr 1 0 0, fr 0 0 0, fr 1 0 1, fr 1 0 0]

/-- A path with a pause from CAPTURE to UPDATE, in an instance with room for just its bits, in each column. -/
theorem witness_paused_scan :
    (∃ (s : State) (f g : Frame) (fs : List Frame) (rest : List Input), s.fault = none ∧ s.tap = 3 ∧
      s.pending = (f :: fs ++ [g]).map InputOf.frame ++ rest ∧
      (∀ p ∈ preStates (transition .capDr f.c) fs, p ∈ [TapState.shDr, .ex1Dr, .pauDr, .ex2Dr]) ∧
      walk .capDr ((f :: fs).map FrameOf.c) = .updDr ∧ s.cfg.bufMax = some 3 ∧
      (framesIn .shDr .capDr (f :: fs)).length = 3) ∧
    ∃ (s : State) (f g : Frame) (fs : List Frame) (rest : List Input), s.fault = none ∧ s.tap = 10 ∧
      s.pending = (f :: fs ++ [g]).map InputOf.frame ++ rest ∧
      (∀ p ∈ preStates (transition .capIr f.c) fs, p ∈ [TapState.shIr, .ex1Ir, .pauIr, .ex2Ir]) ∧
      walk .capIr ((f :: fs).map FrameOf.c) = .updIr ∧ s.cfg.bufMax = some 3 ∧
      (framesIn .shIr .capIr (f :: fs)).length = 3 :=
  ⟨⟨within 3 (at' 3 [1] [1] [] [] (fr 0 0 0 :: pausedScan ++ [fr 1 0 0])), fr 0 0 0, fr 1 0 0, pausedScan, [],
      by decide⟩,
    within 3 (at' 10 [] [] [1] [1] (fr 0 0 0 :: pausedScan ++ [fr 1 0 0])), fr 0 0 0, fr 1 0 0, pausedScan, [],
      by decide⟩

/-- P3's values: the frames taken in SHIFT carry 110 and 001 in shift order, 0x6 and 0x4 at UPDATE-DR. -/
theorem test_paused_scan_bits :
    msbFirstSum ((framesIn .shDr .capDr (fr 0 0 0 :: pausedScan)).map FrameOf.t) = 0x6 ∧
    lsbFirstSum ((framesIn .shDr .capDr (fr 0 0 0 :: pausedScan)).map FrameOf.h) = 0x4 := by decide

/-- Running blocks in each update state, one in another state, and a halted one (the step over a time type). -/
theorem witness_blocks :
    ((at' 8 [1] [1] [] [] []).block.fault = none ∧ (at' 8 [1] [1] [] [] []).block.tap = 8) ∧
    ((at' 15 [] [] [1] [1] []).block.fault = none ∧ (at' 15 [] [] [1] [1] []).block.tap = 15) ∧
    (State.reset.block.tap ≠ 8 ∧ State.reset.block.tap ≠ 15) ∧ haltedDr.block.fault ≠ none := by decide

/-- The empty shift, from CAPTURE-DR and from CAPTURE-IR with fields that are not empty, in an instance of no bits. -/
theorem witness_empty_shift :
    ∀ tap ∈ ([3, 10] : List StateCode), ∃ (s : State) (f g h : Frame) (rest : List Input), s.fault = none ∧
      s.pending = [f, g, h].map InputOf.frame ++ rest ∧ f.c = true ∧ g.c = true ∧ s.tap = tap :=
  fun tap _ => ⟨within 0 (at' tap [1] [1] [1] [1] [fr 1 0 0, fr 1 0 0, fr 0 0 0]), fr 1 0 0, fr 1 0 0, fr 0 0 0, [],
    rfl, rfl, rfl, rfl, rfl⟩

/-- States with and without an event, with a named and an unnamed one, and with each fault. -/
theorem witness_ports :
    (∃ (s : State) (e : Event), s.event = some e ∧ e.instruction = none) ∧
    (∃ (s : State) (e : Event) (n : InstrName), s.event = some e ∧ e.instruction = some n) ∧
    State.reset.event = none ∧ State.reset.fault = none ∧
    ({ State.reset with fault := some (.invalidState 16) } : State).fault = some (.invalidState 16) ∧
    haltedDr.fault = some (.capacityExceeded .shDr) :=
  ⟨⟨{ State.reset with event := some ⟨0, 1, .dr, 0, 0, none⟩ }, _, rfl, rfl⟩,
    ⟨{ State.reset with event := some ⟨0, 1, .ir, 0xFF, 0, some .irBypass⟩ }, _, _, rfl, rfl⟩, rfl, rfl, rfl, rfl⟩

end Sys2Proof.Tests
end

section
/-! PROOFS. The family of 00_scope.md: the value of a bit sequence, what every step keeps, and the block over every type
of time tags. -/

namespace Sys2Proof.Machine

/-! The two positional sums and `val` (00_scope.md R11). -/

@[simp] theorem msbFirstSum_nil : msbFirstSum [] = 0 := rfl

@[simp] theorem lsbFirstSum_nil : lsbFirstSum [] = 0 := rfl

/-- A front bit is the most significant one: it adds its weight to the sum of the others. -/
theorem msbFirstSum_cons (b : Bit) (s : Bits) :
    msbFirstSum (b :: s) = msbFirstSum s + b.toNat * 2 ^ s.length := by
  rw [msbFirstSum, msbFirstSum, List.length_cons, Finset.sum_range_succ']
  simp [Nat.sub_sub, Nat.add_comm 1]

/-- A front bit is the least significant one: it moves the others up by one place. -/
theorem lsbFirstSum_cons (b : Bit) (s : Bits) :
    lsbFirstSum (b :: s) = 2 * lsbFirstSum s + b.toNat := by
  rw [lsbFirstSum, lsbFirstSum, List.length_cons, Finset.sum_range_succ', Finset.mul_sum]
  simp [pow_succ', mul_left_comm]

theorem val_eq_msbFirstSum (s : Bits) : val s = msbFirstSum s := by
  induction s with
  | nil => rfl
  | cons b s ih => rw [val_cons, msbFirstSum_cons, ih]

theorem val_reverse (s : Bits) : val s.reverse = lsbFirstSum s := by
  induction s with
  | nil => rfl
  | cons b s ih => rw [List.reverse_cons, val_append_one, lsbFirstSum_cons, ih]

/-- An outcome is one state at most. -/
theorem next_unique {o : Host.Outcome State Fault Refusal} {t u : State} (ht : o = .next t) (hu : o = .next u) :
    t = u := by
  rw [ht] at hu
  exact Host.Outcome.next.inj hu

/-! What the instruction of a frame keeps, whatever its state. -/

/-- The instruction of a frame always has a next state, and writes none of the model's own fields but the event. -/
theorem exec_frameInstr_next (p : TapState) (f : Frame) (s : State) :
    ∃ u, exec (frameInstr p f) s = .next u ∧ u.cfg = s.cfg ∧ u.pending = s.pending ∧ u.emitted = s.emitted := by
  rw [exec_frameInstr_cases]
  cases p
  case shDr => by_cases full : s.drFull <;> simp [full]
  case shIr => by_cases full : s.irFull <;> simp [full]
  all_goals exact ⟨_, rfl, rfl, rfl, rfl⟩

/-- Only the instructions of the two update states leave an event (41_shift_accumulator.md R120). -/
theorem exec_frameInstr_event {p : TapState} {f : Frame} {s u : State} (hp : isUpdate p = false)
    (h : exec (frameInstr p f) s = .next u) : u.event = none := by
  rw [exec_frameInstr_cases] at h
  cases p
  case updDr => cases hp
  case updIr => cases hp
  case shDr => dsimp only at h; split at h <;> cases h <;> rfl
  case shIr => dsimp only at h; split at h <;> cases h <;> rfl
  all_goals cases h; rfl

/-! A step, one equation per kind of input (the fourth, a frame while the block runs, is `step_frame`). -/

theorem step_of_pending_nil {s : State} (hp : s.pending = []) : step s = .next s.noEvent := by
  simp only [step, hp]

theorem step_rst {s : State} {rest : List Input} (hp : s.pending = .rst :: rest) :
    step s = .next (s.consume rest).applyReset := by
  simp only [step, hp]

theorem step_frame_halted {s : State} {f : Frame} {rest : List Input} (hp : s.pending = .frame f :: rest)
    (hf : s.fault ≠ none) : step s = .next (s.consume rest).noEvent := by
  obtain ⟨cause, hcause⟩ := Option.ne_none_iff_exists'.mp hf
  simp only [step, hp, hcause]

/-- A running block takes a frame to the state that the instruction of its state leaves, the event delivered. -/
theorem step_frame_next {s u : State} {f : Frame} {rest : List Input} {p : TapState}
    (hp : s.pending = .frame f :: rest) (hf : s.fault = none) (ht : s.tap = p.code)
    (hu : exec (frameInstr p f) (s.consume rest) = .next u) : step s = .next u.deliver := by
  rw [step_frame hp hf ht, hu, deliverOutcome]

/-- Every step has a next state. -/
theorem step_next (s : State) : ∃ t, step s = .next t := by
  rcases hp : s.pending with _ | ⟨_ | f, rest⟩
  · exact ⟨_, step_of_pending_nil hp⟩
  · exact ⟨_, step_rst hp⟩
  · by_cases hf : s.fault = none
    · obtain ⟨p, hcode⟩ := exists_state_of_code s.tap
      obtain ⟨u, hu, -⟩ := exec_frameInstr_next p f (s.consume rest)
      exact ⟨_, step_frame_next hp hf hcode.symm hu⟩
    · exact ⟨_, step_frame_halted hp hf⟩

/-- A step keeps the parameters `cfg`, takes the first input, and adds its event to the output sequence. -/
theorem step_environment {s t : State} (h : step s = .next t) :
    t.cfg = s.cfg ∧ t.pending = s.pending.tail ∧ t.emitted = s.emitted ++ t.event.toList := by
  obtain ⟨hp, rfl⟩ | ⟨rest, hp, rfl⟩ | ⟨f, rest, hp, -, rfl⟩ | ⟨f, rest, p, u, hp, -, -, hu, rfl⟩ := step_cases h
  · simp [hp]
  · simp [hp]
  · simp [hp]
  · obtain ⟨u', hu', hcfg, hpending, hemitted⟩ := exec_frameInstr_next p f (s.consume rest)
    obtain rfl := next_unique hu hu'
    simp [hcfg, hpending, hemitted, hp]

/-! The renaming of tags, and the step over a time type. -/

/-- Two states have the same block when the elements of 10_state.md R20 and the parameters are equal. -/
theorem block_eq_iff (s s' : State) :
    s'.block = s.block ↔ s'.tap = s.tap ∧ s'.drTt = s.drTt ∧ s'.drTh = s.drTh ∧ s'.irTt = s.irTt ∧
      s'.irTh = s.irTh ∧ s'.fault = s.fault ∧ s'.cfg = s.cfg := by
  simp [State.block]

@[simp] theorem applyReset_block (s : State) :
    s.applyReset.block =
      { s.block with tap := 1, drTt := [], drTh := [], irTt := [], irTh := [], fault := none } := rfl

/-- Two states with the same block, given a frame and the same frame with its tags renamed: the instruction has the same
effect on the block, and its event is the same with its tags renamed (60_exceptions.md R181). -/
theorem exec_frameInstr_retag {p : TapState} {f : Frame} {s s' u : State} (g : NatTime → NatTime)
    (hb : s'.block = s.block) (h : exec (frameInstr p f) s = .next u) :
    ∃ u', exec (frameInstr p (f.retag g)) s' = .next u' ∧ u'.block = u.block ∧
      u'.event = u.event.map (EventOf.retag g) := by
  obtain ⟨htap, hdrTt, hdrTh, hirTt, hirTh, hfault, hcfg⟩ := (block_eq_iff s s').mp hb
  rw [exec_frameInstr_cases] at h ⊢
  cases p
  case shDr =>
    have hfull : s'.drFull = s.drFull := by simp only [State.drFull, hcfg, hdrTt, hdrTh]
    dsimp only at h ⊢
    rw [hfull]
    split at h
    · cases h
      simp [*, block_eq_iff]
    · cases h
      simp [*, block_eq_iff, FrameOf.retag]
  case shIr =>
    have hfull : s'.irFull = s.irFull := by simp only [State.irFull, hcfg, hirTt, hirTh]
    dsimp only at h ⊢
    rw [hfull]
    split at h
    · cases h
      simp [*, block_eq_iff]
    · cases h
      simp [*, block_eq_iff, FrameOf.retag]
  all_goals
    cases h
    refine ⟨_, rfl, ?_⟩
    simp [block_eq_iff, FrameOf.retag, EventOf.retag, hdrTt, hdrTh, hirTt, hirTh, hfault, hcfg]

/-- A step reads the block and its next input only, and its input's tags it only copies: with the same block and that
input's tags renamed it reaches the same block, and its event is the same with its tags renamed. -/
theorem step_retag {s s' t : State} {i : Input} {rest rest' : List Input} (g : NatTime → NatTime)
    (hb : s'.block = s.block) (hp : s.pending = i :: rest) (hp' : s'.pending = i.retag g :: rest')
    (h : step s = .next t) :
    ∃ t', step s' = .next t' ∧ t'.block = t.block ∧ t'.event = t.event.map (EventOf.retag g) := by
  have hfault : s'.fault = s.fault := congrArg Block.fault hb
  have htap : s'.tap = s.tap := congrArg Block.tap hb
  cases i with
  | rst =>
    obtain rfl := next_unique h (step_rst hp)
    exact ⟨_, step_rst hp', by simp [hb], rfl⟩
  | frame f =>
    by_cases hf : s.fault = none
    · obtain ⟨p, hcode⟩ := exists_state_of_code s.tap
      obtain ⟨u, hu, -⟩ := exec_frameInstr_next p f (s.consume rest)
      obtain ⟨u', hu', hblock, hevent⟩ :=
        exec_frameInstr_retag (s' := s'.consume rest') g (by simpa using hb) hu
      obtain rfl := next_unique h (step_frame_next hp hf hcode.symm hu)
      exact ⟨u'.deliver, step_frame_next hp' (hfault.trans hf) (htap.trans hcode.symm) hu', by simpa using hblock,
        by simpa using hevent⟩
    · obtain rfl := next_unique h (step_frame_halted hp hf)
      exact ⟨_, step_frame_halted hp' (hfault ▸ hf), by simp [hb], rfl⟩

/-- Every step over a time type has a next block, and a stream whose tags are renamed gives the same block and the same
event with its tags renamed. -/
theorem stepOver_retag {Time Time' : Type} (g : Time → Time') (i : InputOf Time) (b : Block) :
    ∃ b' e, stepOver Time i b = .next (b', e) ∧
      stepOver Time' (i.retag g) b = .next (b', e.map (EventOf.retag g)) := by
  obtain ⟨t, ht⟩ := step_next (b.facing [inputTokens i])
  refine ⟨t.block, eventTags i t.event, stepOver_next ht, ?_⟩
  rw [← eventTags_retag]
  exact stepOver_next (by rwa [inputTokens_retag])

/-- A run over a time type is natural in it: renaming the tags of the stream renames those of the events. -/
theorem runOver_retag {Time Time' : Type} (g : Time → Time') (ins : List (InputOf Time)) (b : Block) :
    ∃ b' es, runOver Time ins b = .next (b', es) ∧
      runOver Time' (ins.map (InputOf.retag g)) b = .next (b', es.map (EventOf.retag g)) := by
  induction ins generalizing b with
  | nil => exact ⟨b, [], rfl, rfl⟩
  | cons i rest ih =>
    obtain ⟨b₁, e, hstep, hstep'⟩ := stepOver_retag g i b
    obtain ⟨b₂, es, hrun, hrun'⟩ := ih b₁
    refine ⟨b₂, e.toList ++ es, runOver_cons hstep hrun, ?_⟩
    rw [List.map_cons, runOver_cons hstep' hrun']
    cases e <;> rfl

/-- The renaming that reads an input's tokens back; a reset has none. -/
def tokenReader : Input → NatTime → NatTime
  | .rst => id
  | .frame f => f.tagOf

theorem retag_tokenReader (i : Input) : (inputTokens i).retag (tokenReader i) = i := by
  cases i with
  | rst => rfl
  | frame f => exact congrArg InputOf.frame (tokens_retag_tagOf f)

/-- At the host's time type the step on the tokens, read back, is the step (log entry 1). -/
theorem stepOver_of_step {s t : State} {i : Input} {rest : List Input} (hp : s.pending = i :: rest)
    (h : step s = .next t) : stepOver NatTime i s.block = .next (t.block, t.event) := by
  obtain ⟨u, hu⟩ := step_next (s.block.facing [inputTokens i])
  obtain ⟨t', ht', hblock, hevent⟩ := step_retag (s' := s) (tokenReader i) (facing_block _ _).symm
    (facing_pending _ _) (by rw [retag_tokenReader, hp]) hu
  obtain rfl := next_unique h ht'
  rw [stepOver_next hu, hblock, hevent]
  cases i with
  | rst =>
    obtain rfl := next_unique hu (step_rst (facing_pending _ _))
    rfl
  | frame f => rfl

/-- As many steps as inputs are presented are the run over the host's time type. -/
theorem runSteps_eq_runOver (s : State) :
    ∃ t es, runSteps s.pending.length s = .next t ∧ runOver NatTime s.pending s.block = .next (t.block, es) ∧
      t.emitted = s.emitted ++ es ∧ t.pending = [] := by
  induction hp : s.pending generalizing s with
  | nil => exact ⟨s, [], rfl, rfl, by simp, hp⟩
  | cons i rest ih =>
    obtain ⟨t, ht⟩ := step_next s
    obtain ⟨-, hpending, hemitted⟩ := step_environment ht
    obtain ⟨t', es, hsteps, hrun, hemitted', hdone⟩ := ih t (by rw [hpending, hp, List.tail_cons])
    refine ⟨t', t.event.toList ++ es, ?_, runOver_cons (stepOver_of_step hp ht) hrun, ?_, hdone⟩
    · rw [List.length_cons, runSteps_succ ht, hsteps]
    · rw [hemitted', hemitted, List.append_assoc]

/-- A running block over a time type takes a frame by the instruction of its state. -/
theorem stepOver_frame {Time : Type} {f : FrameOf Time} {b : Block} {p : TapState} {u : State}
    (hf : b.fault = none) (ht : b.tap = p.code)
    (hu : exec (frameInstr p f.tokens) ((b.facing [.frame f.tokens]).consume []) = .next u) :
    stepOver Time (.frame f) b = .next (u.block, u.event.map (EventOf.retag f.tagOf)) := by
  have hstep : step (b.facing [.frame f.tokens]) = .next u.deliver :=
    step_frame_next (facing_pending _ _) hf ht hu
  exact stepOver_next (i := .frame f) (t := u.deliver) hstep

/-- Both update states leave for SELECT-DR-SCAN or RUN-TEST/IDLE (40_tap_fsm.md R89, R96). -/
theorem transition_code_of_isUpdate {p : TapState} (hp : isUpdate p = true) (c : Bit) :
    (transition p c).code = if c then 2 else 1 := by
  cases p
  case updDr => cases c <;> rfl
  case updIr => cases c <;> rfl
  all_goals cases hp

/-- A halted block over a time type lets a frame pass: it stays as it is and emits nothing (60_exceptions.md R173). -/
theorem stepOver_frame_halted {Time : Type} (f : FrameOf Time) {b : Block} (hf : b.fault ≠ none) :
    stepOver Time (.frame f) b = .next (b, none) := by
  have hstep : step (b.facing [.frame f.tokens]) = .next ((b.facing [.frame f.tokens]).consume []).noEvent :=
    step_frame_halted (facing_pending _ _) hf
  exact stepOver_next (i := .frame f) hstep

/-- A reset over a time type puts every element of the block at its reset value and emits nothing. -/
theorem stepOver_rst (Time : Type) (b : Block) :
    stepOver Time .rst b =
      .next ({ b with tap := 1, drTt := [], drTh := [], irTt := [], irTh := [], fault := none }, none) := rfl

/-- A frame taken in a state that is no update state leaves no event, whether or not the block is halted. -/
theorem stepOver_frame_of_not_isUpdate {Time : Type} (f : FrameOf Time) {b : Block} {p : TapState}
    (ht : b.tap = p.code) (hp : isUpdate p = false) :
    ∃ b', stepOver Time (.frame f) b = .next (b', none) := by
  by_cases hf : b.fault = none
  · obtain ⟨u, hu, -⟩ := exec_frameInstr_next p f.tokens ((b.facing [.frame f.tokens]).consume [])
    exact ⟨u.block, by rw [stepOver_frame hf ht hu, exec_frameInstr_event hp hu, Option.map_none]⟩
  · exact ⟨b, stepOver_frame_halted f hf⟩

end Sys2Proof.Machine

namespace Sys2Proof

open Machine

/-- Settles O60: the first clause by the naturality of the run in the time type, the second by induction on the inputs
presented. -/
theorem runsAreTheSameOverEveryTimeType : Obligations.RunsAreTheSameOverEveryTimeType :=
  ⟨fun _ _ g ins b => runOver_retag g ins b, runSteps_eq_runOver⟩

/-- Settles O35, by the cases of a step. -/
theorem instanceAndStreamAreOnlyRead : Obligations.InstanceAndStreamAreOnlyRead := by
  intro s t h
  obtain ⟨hcfg, hpending, -⟩ := step_environment h
  exact ⟨hcfg, hpending⟩

/-- Settles O52: the two sum forms by induction on the sequence. -/
theorem valueOfABitSequence : Obligations.ValueOfABitSequence :=
  ⟨val_nil, val_append_one, val_eq_msbFirstSum, fun s => by simp, val_reverse⟩

/-- Settles O59: one clause per kind of input and state of the block. -/
theorem timeTypeIsAnArgumentOfTheStep : Obligations.TimeTypeIsAnArgumentOfTheStep := by
  intro Time f b
  refine ⟨fun hf ht => ?_, fun hf ht => ?_, fun hdr hir => ?_, stepOver_frame_halted f, stepOver_rst Time b⟩
  · rw [stepOver_frame (p := .updDr) hf ht (exec_frameInstr_cases ..),
      ← transition_code_of_isUpdate (p := .updDr) rfl]
    rfl
  · rw [stepOver_frame (p := .updIr) hf ht (exec_frameInstr_cases ..),
      ← transition_code_of_isUpdate (p := .updIr) rfl]
    rfl
  · obtain ⟨p, hcode⟩ := exists_state_of_code b.tap
    refine stepOver_frame_of_not_isUpdate f hcode.symm ?_
    cases p
    case updDr => exact absurd hcode.symm hdr
    case updIr => exact absurd hcode.symm hir
    all_goals rfl

/-- Settles O24. -/
theorem resetStateOfTheModel : Obligations.ResetStateOfTheModel :=
  ⟨rfl, rfl, rfl, rfl⟩

end Sys2Proof
end

section
/-! PROOFS. The family of 10_state.md: what an instruction and a step do to the two fields of a register, to `tap` and
to `fault`; the invariants of the fields; and that fields outside their shift phase never show. -/

namespace Sys2Proof.Machine

/-! The two registers under one name, so that what holds of both is said once (10_state.md R25). -/

/-- The to-target and the to-host field of a register. -/
def State.fields (r : RegKind) (s : State) : Bits × Bits :=
  match r with
  | .dr => (s.drTt, s.drTh)
  | .ir => (s.irTt, s.irTh)

/-- The state with other fields in one register. -/
def State.setFields (r : RegKind) (x : Bits × Bits) (s : State) : State :=
  match r with
  | .dr => { s with drTt := x.1, drTh := x.2 }
  | .ir => { s with irTt := x.1, irTh := x.2 }

/-- A shift of the register finds a field that holds `BUF_MAX` bits. -/
def State.full (r : RegKind) (s : State) : Bool :=
  match r with
  | .dr => s.drFull
  | .ir => s.irFull

/-- The fields after the shift of a frame (20_memory.md R44). -/
def shifted (r : RegKind) (f : Frame) (x : Bits × Bits) : Bits × Bits :=
  match r with
  | .dr => (x.1 ++ [f.t], f.h :: x.2)
  | .ir => (f.t :: x.1, x.2 ++ [f.h])

/-- The state whose frame clears the register's fields. -/
def captureState : RegKind → TapState
  | .dr => .capDr
  | .ir => .capIr

/-- The state whose frame shifts the register's fields. -/
def shiftState : RegKind → TapState
  | .dr => .shDr
  | .ir => .shIr

/-- The states in which the register's fields can still reach an event. -/
def fieldsLive : RegKind → TapState → Bool
  | .dr => drLive
  | .ir => irLive

@[simp] theorem fields_dr (s : State) : s.fields .dr = (s.drTt, s.drTh) := rfl
@[simp] theorem fields_ir (s : State) : s.fields .ir = (s.irTt, s.irTh) := rfl

@[simp] theorem fields_applyReset (r : RegKind) (s : State) : s.applyReset.fields r = ([], []) := by
  cases r <;> rfl
@[simp] theorem full_consume (r : RegKind) (rest : List Input) (s : State) :
    (s.consume rest).full r = s.full r := rfl

@[simp] theorem setFields_tap (r : RegKind) (x : Bits × Bits) (s : State) : (s.setFields r x).tap = s.tap := by
  cases r <;> rfl
@[simp] theorem setFields_fault (r : RegKind) (x : Bits × Bits) (s : State) :
    (s.setFields r x).fault = s.fault := by
  cases r <;> rfl
@[simp] theorem setFields_pending (r : RegKind) (x : Bits × Bits) (s : State) :
    (s.setFields r x).pending = s.pending := by
  cases r <;> rfl
@[simp] theorem setFields_fields_self (r : RegKind) (s : State) : s.setFields r (s.fields r) = s := by
  cases r <;> rfl

theorem noEvent_setFields (r : RegKind) (x : Bits × Bits) (s : State) :
    (s.setFields r x).noEvent = s.noEvent.setFields r x := by
  cases r <;> rfl

theorem consume_setFields (r : RegKind) (x : Bits × Bits) (rest : List Input) (s : State) :
    (s.setFields r x).consume rest = (s.consume rest).setFields r x := by
  cases r <;> rfl

theorem deliver_setFields (r : RegKind) (x : Bits × Bits) (s : State) :
    (s.setFields r x).deliver = s.deliver.setFields r x := by
  cases r <;> rfl

theorem applyReset_setFields (r : RegKind) (x : Bits × Bits) (s : State) :
    (s.setFields r x).applyReset = s.applyReset := by
  cases r <;> rfl

theorem full_iff (r : RegKind) (s : State) :
    s.full r = true ↔
      s.cfg.bufMax = some (s.fields r).1.length ∨ s.cfg.bufMax = some (s.fields r).2.length := by
  cases r
  · exact drFull_iff s
  · exact irFull_iff s

/-- Without a capacity bound no field is full (10_state.md R28). -/
theorem full_of_unbounded (r : RegKind) {s : State} (h : s.cfg.bufMax = none) : s.full r = false := by
  rw [Bool.eq_false_iff, Ne, full_iff, h]
  simp

theorem length_shifted (r : RegKind) (f : Frame) (x : Bits × Bits) :
    (shifted r f x).1.length = x.1.length + 1 ∧ (shifted r f x).2.length = x.2.length + 1 := by
  cases r <;> simp [shifted]

theorem evenFields_iff (s : State) :
    s.evenFields ↔ ∀ r, (s.fields r).1.length = (s.fields r).2.length :=
  ⟨fun ⟨hdr, hir⟩ r => by cases r <;> assumption, fun h => ⟨h .dr, h .ir⟩⟩

theorem withinCapacity_iff (s : State) :
    s.withinCapacity ↔ ∀ n, s.cfg.bufMax = some n →
      ∀ r, (s.fields r).1.length ≤ n ∧ (s.fields r).2.length ≤ n := by
  refine forall₂_congr fun n _ => ⟨fun ⟨hdrTt, hdrTh, hirTt, hirTh⟩ r => ?_, fun h => ?_⟩
  · cases r
    · exact ⟨hdrTt, hdrTh⟩
    · exact ⟨hirTt, hirTh⟩
  · exact ⟨(h .dr).1, (h .dr).2, (h .ir).1, (h .ir).2⟩

/-! What an instruction does. -/

/-- Every instruction has a next state (60_exceptions.md R177): the two shifts with their fault too. -/
theorem exec_next (i : Instr) (s : State) : ∃ t, exec i s = .next t := by
  cases i
  case drShiftShDr f => exact (exec_frameInstr_next .shDr f s).imp fun _ h => h.1
  case irShiftShIr f => exact (exec_frameInstr_next .shIr f s).imp fun _ h => h.1
  case irUpdateUpdIr f => exact ⟨_, execIrUpdateUpdIr_eq f s⟩
  all_goals exact ⟨_, rfl⟩

/-- The instruction of a frame moves `tap` by the transition function and leaves `fault`, or is the shift of a full
register and does nothing but take the fault (40_tap_fsm.md R80, 60_exceptions.md R172). -/
theorem exec_frameInstr_moves_or_faults {p : TapState} {f : Frame} {s u : State}
    (h : exec (frameInstr p f) s = .next u) :
    (u.fault = s.fault ∧ u.tap = (transition p f.c).code) ∨
    ∃ r, p = shiftState r ∧ s.full r = true ∧ u = s.takeFault (.capacityExceeded (shiftState r)) := by
  rw [exec_frameInstr_cases] at h
  cases p
  case shDr =>
    dsimp only at h
    split at h <;> cases h
    · exact .inr ⟨.dr, rfl, ‹_›, rfl⟩
    · exact .inl ⟨rfl, rfl⟩
  case shIr =>
    dsimp only at h
    split at h <;> cases h
    · exact .inr ⟨.ir, rfl, ‹_›, rfl⟩
    · exact .inl ⟨rfl, rfl⟩
  all_goals
    cases h
    exact .inl ⟨rfl, rfl⟩

/-- The instruction of a frame keeps the fields of a register, or clears them in the capture state, or adds a bit to
each in the shift state, where neither is full (41_shift_accumulator.md R111). -/
theorem exec_frameInstr_fields (r : RegKind) {p : TapState} {f : Frame} {s u : State}
    (h : exec (frameInstr p f) s = .next u) :
    u.fields r = s.fields r ∨ (p = captureState r ∧ u.fields r = ([], [])) ∨
    (p = shiftState r ∧ s.full r = false ∧ u.fields r = shifted r f (s.fields r)) := by
  rw [exec_frameInstr_cases] at h
  cases p
  case capDr =>
    cases h
    cases r
    · exact .inr (.inl ⟨rfl, rfl⟩)
    · exact .inl rfl
  case capIr =>
    cases h
    cases r
    · exact .inl rfl
    · exact .inr (.inl ⟨rfl, rfl⟩)
  case shDr =>
    dsimp only at h
    split at h <;> cases h
    · exact .inl rfl
    · cases r
      · exact .inr (.inr ⟨rfl, Bool.eq_false_iff.mpr ‹_›, rfl⟩)
      · exact .inl rfl
  case shIr =>
    dsimp only at h
    split at h <;> cases h
    · exact .inl rfl
    · cases r
      · exact .inl rfl
      · exact .inr (.inr ⟨rfl, Bool.eq_false_iff.mpr ‹_›, rfl⟩)
  all_goals
    cases h
    exact .inl rfl

/-- A frame taken in the capture state leaves nothing of what the fields held (10_state.md R26). -/
theorem exec_capture_setFields (r : RegKind) (f : Frame) (x : Bits × Bits) (s : State) :
    exec (frameInstr (captureState r) f) (s.setFields r x) = exec (frameInstr (captureState r) f) s := by
  cases r <;> rfl

/-- Outside its capture state and its live states a register's fields are neither read nor written. -/
theorem exec_setFields {r : RegKind} {p : TapState} {f : Frame} {s u : State} (x : Bits × Bits)
    (hlive : fieldsLive r p = false) (hcap : p ≠ captureState r) (h : exec (frameInstr p f) s = .next u) :
    exec (frameInstr p f) (s.setFields r x) = .next (u.setFields r x) := by
  rw [exec_frameInstr_cases] at h ⊢
  cases r <;> cases p
  case dr.capDr => exact absurd rfl hcap
  case ir.capIr => exact absurd rfl hcap
  case dr.shIr =>
    have hfull : (s.setFields .dr x).irFull = s.irFull := rfl
    dsimp only at h ⊢
    rw [hfull]
    by_cases full : s.irFull = true
    · rw [if_pos full] at h ⊢
      cases h
      rfl
    · rw [if_neg full] at h ⊢
      cases h
      rfl
  case ir.shDr =>
    have hfull : (s.setFields .ir x).drFull = s.drFull := rfl
    dsimp only at h ⊢
    rw [hfull]
    by_cases full : s.drFull = true
    · rw [if_pos full] at h ⊢
      cases h
      rfl
    · rw [if_neg full] at h ⊢
      cases h
      rfl
  -- the live states are excluded; every other one moves `tap` or acts on the other register
  all_goals cases hlive
  all_goals
    cases h
    rfl

/-- A register's live states are entered from its capture state only (40_tap_fsm.md R99). -/
theorem live_transition {r : RegKind} {p : TapState} {c : Bit} :
    fieldsLive r (transition p c) = true → fieldsLive r p = true ∨ p = captureState r := by
  cases r <;> cases p <;> cases c <;> decide

/-! What a step does to the fields, to `tap` and to `fault`. -/

/-- A step keeps the fields of a register, or clears them on a frame in the capture state or on a reset, or adds a bit
of the frame to each in the shift state, where neither is full (41_shift_accumulator.md R111, 10_state.md R27). -/
theorem step_fields (r : RegKind) {s t : State} (h : step s = .next t) :
    t.fields r = s.fields r ∨
    ((s.tap = (captureState r).code ∨ ∃ rest, s.pending = .rst :: rest) ∧ t.fields r = ([], [])) ∨
    ∃ f rest, s.pending = .frame f :: rest ∧ s.tap = (shiftState r).code ∧ s.full r = false ∧
      t.fields r = shifted r f (s.fields r) := by
  obtain ⟨-, rfl⟩ | ⟨rest, hp, rfl⟩ | ⟨f, rest, -, -, rfl⟩ | ⟨f, rest, p, u, hp, -, htap, hu, rfl⟩ := step_cases h
  · exact .inl rfl
  · exact .inr (.inl ⟨.inr ⟨rest, hp⟩, fields_applyReset r _⟩)
  · exact .inl rfl
  · obtain hkept | ⟨rfl, hclear⟩ | ⟨rfl, hroom, hshift⟩ := exec_frameInstr_fields r hu
    · exact .inl hkept
    · exact .inr (.inl ⟨.inl htap, hclear⟩)
    · exact .inr (.inr ⟨f, rest, hp, htap, hroom, hshift⟩)

/-- A step keeps the two fields of a register equal in length (10_state.md R36). -/
theorem step_length_eq (r : RegKind) {s t : State} (h : step s = .next t)
    (heven : (s.fields r).1.length = (s.fields r).2.length) :
    (t.fields r).1.length = (t.fields r).2.length := by
  obtain hkept | ⟨-, hclear⟩ | ⟨f, rest, -, -, -, hshift⟩ := step_fields r h
  · rw [hkept, heven]
  · rw [hclear]
  · obtain ⟨htt, hth⟩ := length_shifted r f (s.fields r)
    rw [hshift, htt, hth, heven]

/-- A step keeps the fields of a register within the capacity: a shift adds a bit only where there is room for it. -/
theorem step_length_le (r : RegKind) {s t : State} {n : Nat} (h : step s = .next t)
    (hn : s.cfg.bufMax = some n) (hle : (s.fields r).1.length ≤ n ∧ (s.fields r).2.length ≤ n) :
    (t.fields r).1.length ≤ n ∧ (t.fields r).2.length ≤ n := by
  obtain hkept | ⟨-, hclear⟩ | ⟨f, rest, -, -, hroom, hshift⟩ := step_fields r h
  · rwa [hkept]
  · simp [hclear]
  · obtain ⟨htt, hth⟩ := length_shifted r f (s.fields r)
    rw [Bool.eq_false_iff, Ne, full_iff, hn, Option.some_inj, Option.some_inj] at hroom
    rw [hshift, htt, hth]
    omega

/-- A running block that takes a frame moves by the transition function and runs on, or takes a fault. -/
theorem step_frame_tap {s t : State} {p : TapState} {f : Frame} {rest : List Input} (hf : s.fault = none)
    (htap : s.tap = p.code) (hp : s.pending = .frame f :: rest) (h : step s = .next t) (ht : t.fault = none) :
    t.tap = (transition p f.c).code := by
  obtain ⟨u, hu, -⟩ := exec_frameInstr_next p f (s.consume rest)
  obtain rfl := next_unique h (step_frame_next hp hf htap hu)
  obtain ⟨-, hmove⟩ | ⟨r, -, -, rfl⟩ := exec_frameInstr_moves_or_faults hu
  · exact hmove
  · cases ht

/-- Without a capacity bound a running block runs on (60_exceptions.md R174). -/
theorem step_runs_on {s t : State} (hmax : s.cfg.bufMax = none) (hf : s.fault = none) (h : step s = .next t) :
    t.fault = none := by
  obtain ⟨-, rfl⟩ | ⟨rest, -, rfl⟩ | ⟨f, rest, -, hne, -⟩ | ⟨f, rest, p, u, -, -, -, hu, rfl⟩ := step_cases h
  · exact hf
  · rfl
  · exact absurd hf hne
  · obtain ⟨hfault, -⟩ | ⟨r, -, hfull, -⟩ := exec_frameInstr_moves_or_faults hu
    · exact hfault.trans hf
    · rw [full_consume, full_of_unbounded r hmax] at hfull
      cases hfull

/-! Fields outside their shift phase never show (10_state.md R30, R37). -/

/-- The register's fields are `x` if they can still reach an event: putting `x` in their place cannot show. -/
def agreesWhereLive (r : RegKind) (x : Bits × Bits) (s : State) : Prop :=
  ∀ p : TapState, s.tap = p.code → fieldsLive r p = true → s.fields r = x

theorem agreesWhereLive_of_not_live {r : RegKind} {p : TapState} {s : State} (x : Bits × Bits) (htap : s.tap = p.code)
    (hlive : fieldsLive r p = false) : agreesWhereLive r x s := by
  intro q hq hlive'
  obtain rfl := code_injective (htap.symm.trans hq)
  rw [hlive] at hlive'
  cases hlive'

theorem agreesWhereLive_fields (r : RegKind) (s : State) : agreesWhereLive r (s.fields r) s := fun _ _ _ => rfl

/-- Where the fields are not live, the instruction of a frame reaches the same state from any others, but for the
register's fields, and these agree again where they are live. -/
theorem exec_setFields_of_not_live {r : RegKind} {p : TapState} {f : Frame} {s u : State} (x : Bits × Bits)
    (htap : s.tap = p.code) (hlive : fieldsLive r p = false) (hu : exec (frameInstr p f) s = .next u) :
    ∃ y, exec (frameInstr p f) (s.setFields r x) = .next (u.setFields r y) ∧ agreesWhereLive r y u := by
  by_cases hcap : p = captureState r
  · subst hcap
    exact ⟨u.fields r, by rw [exec_capture_setFields, setFields_fields_self, hu], agreesWhereLive_fields r u⟩
  · refine ⟨x, exec_setFields x hlive hcap hu, ?_⟩
    obtain ⟨-, hmove⟩ | ⟨_, -, -, rfl⟩ := exec_frameInstr_moves_or_faults hu
    · refine agreesWhereLive_of_not_live x hmove (Bool.eq_false_iff.mpr fun hnext => ?_)
      obtain hlive' | hcap' := live_transition hnext
      · exact Bool.eq_false_iff.mp hlive hlive'
      · exact hcap hcap'
    · exact agreesWhereLive_of_not_live x htap hlive

/-- A step from other fields, that agree where they are live, reaches the same state but for the register's fields, and
these agree again where they are live. -/
theorem step_setFields {r : RegKind} {x : Bits × Bits} {s t : State} (hx : agreesWhereLive r x s)
    (h : step s = .next t) :
    ∃ y, step (s.setFields r x) = .next (t.setFields r y) ∧ agreesWhereLive r y t := by
  obtain ⟨hp, rfl⟩ | ⟨rest, hp, rfl⟩ | ⟨f, rest, hp, hf, rfl⟩ | ⟨f, rest, p, u, hp, hf, htap, hu, rfl⟩ := step_cases h
  · exact ⟨x, by rw [step_of_pending_nil (by simpa using hp), noEvent_setFields], hx⟩
  · refine ⟨_, ?_, agreesWhereLive_fields r _⟩
    rw [step_rst (by simpa using hp), consume_setFields, applyReset_setFields, setFields_fields_self]
  · refine ⟨x, ?_, hx⟩
    rw [step_frame_halted (by simpa using hp) (by simpa using hf), consume_setFields, noEvent_setFields]
  · by_cases hlive : fieldsLive r p = true
    · obtain rfl := hx p htap hlive
      exact ⟨_, by rw [setFields_fields_self, setFields_fields_self, h], agreesWhereLive_fields r _⟩
    · obtain ⟨y, hy, hagrees⟩ :=
        exec_setFields_of_not_live (s := s.consume rest) x htap (Bool.eq_false_iff.mpr hlive) hu
      refine ⟨y, ?_, hagrees⟩
      rw [← consume_setFields] at hy
      rw [step_frame_next (by simpa using hp) (by simpa using hf) (by simpa using htap) hy, deliver_setFields]

/-- A run of any length from other fields, that agree where they are live, reaches the same state but for the register's
fields. -/
theorem runSteps_setFields {r : RegKind} {x : Bits × Bits} (k : Nat) {s : State} (hx : agreesWhereLive r x s) :
    ∃ t y, runSteps k s = .next t ∧ runSteps k (s.setFields r x) = .next (t.setFields r y) := by
  induction k generalizing s x with
  | zero => exact ⟨s, x, rfl, rfl⟩
  | succ k ih =>
    obtain ⟨u, hu⟩ := step_next s
    obtain ⟨z, hz, hagrees⟩ := step_setFields hx hu
    obtain ⟨t, y, ht, hy⟩ := ih hagrees
    exact ⟨t, y, by rw [runSteps_succ hu, ht], by rw [runSteps_succ hz, hy]⟩

/-! The fixed-register form of a field (10_state.md R29). -/

/-- One insertion on the pair form is the insertion on the sequence. -/
theorem insertPair_pairOf (place : InsertEnd) (b : Bit) (s : Bits) :
    insertPair place b (pairOf s) = pairOf (insertBit place b s) := by
  cases place <;> simp [insertPair, pairOf]

end Sys2Proof.Machine

namespace Sys2Proof

open Machine

/-- Settles O36: each register by the three things that a step can do to its fields. -/
theorem fieldsOfARegisterKeepEqualLengths : Obligations.FieldsOfARegisterKeepEqualLengths := by
  intro s t heven h
  rw [evenFields_iff] at heven ⊢
  exact fun r => step_length_eq r h (heven r)

/-- Settles O37: a step does not write the capacity, and each register stays within it. -/
theorem fieldsStayWithinCapacity : Obligations.FieldsStayWithinCapacity := by
  intro s t hwithin h
  rw [withinCapacity_iff] at hwithin ⊢
  obtain ⟨hcfg, -⟩ := step_environment h
  rw [hcfg]
  exact fun n hn r => step_length_le r h hn (hwithin n hn r)

/-- Settles O47: each register by induction on the number of steps; the reset state, where neither register is live, by
changing first the one register and then the other. -/
theorem bufferContentsBeforeACaptureAreUnobservable : Obligations.BufferContentsBeforeACaptureAreUnobservable := by
  refine ⟨fun k s p x y htap hlive => ?_, fun k s p x y htap hlive => ?_, fun k ins w x y z => ?_⟩
  · obtain ⟨t, fs, ht, hfs⟩ := runSteps_setFields (r := .dr) k (agreesWhereLive_of_not_live (x, y) htap hlive)
    exact ⟨t, _, ht, hfs, rfl, rfl, rfl, rfl, rfl, rfl⟩
  · obtain ⟨t, fs, ht, hfs⟩ := runSteps_setFields (r := .ir) k (agreesWhereLive_of_not_live (x, y) htap hlive)
    exact ⟨t, _, ht, hfs, rfl, rfl, rfl, rfl, rfl, rfl⟩
  · have hdr : agreesWhereLive .dr (w, x) { State.reset with pending := ins } :=
      agreesWhereLive_of_not_live (p := .rti) _ rfl rfl
    have hir : agreesWhereLive .ir (y, z) (State.setFields .dr (w, x) { State.reset with pending := ins }) :=
      agreesWhereLive_of_not_live (p := .rti) _ rfl rfl
    obtain ⟨t, fs, ht, hfs⟩ := runSteps_setFields k hdr
    obtain ⟨t', gs, ht', hgs⟩ := runSteps_setFields k hir
    obtain rfl := next_unique ht' hfs
    exact ⟨t, _, ht, hgs, rfl, rfl, rfl, rfl⟩

/-- Settles O20. -/
theorem everyStepAnswersANextState : Obligations.EveryStepAnswersANextState :=
  ⟨exec_next, step_next⟩

/-- Settles O28, by induction on the number of steps. -/
theorem referenceModelNeverFaults : Obligations.ReferenceModelNeverFaults := by
  intro k
  induction k with
  | zero => exact fun s hmax hf => ⟨s, rfl, hf, hmax⟩
  | succ k ih =>
    intro s hmax hf
    obtain ⟨u, hu⟩ := step_next s
    obtain ⟨hcfg, -⟩ := step_environment hu
    rw [runSteps_succ hu]
    exact ih u (by rw [hcfg, hmax]) (step_runs_on hmax hf hu)

/-- Settles O30: the second clause is the first for both blocks. -/
theorem nextTapDependsOnTapAndControlBitOnly : Obligations.NextTapDependsOnTapAndControlBitOnly := by
  refine ⟨fun s t p f rest => step_frame_tap, fun s s' t t' f f' rest rest' hf hf' htap hc hp hp' h h' ht ht' => ?_⟩
  obtain ⟨p, hcode⟩ := exists_state_of_code s.tap
  rw [step_frame_tap hf hcode.symm hp h ht, step_frame_tap hf' (htap.symm.trans hcode.symm) hp' h' ht', hc]

/-- Settles O31: each register by the three things that a step can do to its fields. -/
theorem onlyCaptureAndShiftFramesWriteBuffers : Obligations.OnlyCaptureAndShiftFramesWriteBuffers := by
  intro s t f rest hp h
  have hreg : ∀ r, t.fields r = s.fields r ∨ (s.tap = (captureState r).code ∧ t.fields r = ([], [])) ∨
      (s.tap = (shiftState r).code ∧ t.fields r = shifted r f (s.fields r)) := by
    intro r
    obtain hkept | ⟨htap | ⟨_, hrst⟩, hclear⟩ | ⟨g, _, hframe, htap, -, hshift⟩ := step_fields r h
    · exact .inl hkept
    · exact .inr (.inl ⟨htap, hclear⟩)
    · cases hp.symm.trans hrst
    · cases hp.symm.trans hframe
      exact .inr (.inr ⟨htap, hshift⟩)
  have hdr := hreg .dr
  have hir := hreg .ir
  simp only [fields_dr, fields_ir, shifted, Prod.mk.injEq] at hdr hir
  exact ⟨hdr, hir⟩

/-- Settles O53: any insertions by the one insertion; a prepend to the empty field and to `0` differ. -/
theorem pairFormFollowsTheSequenceForm : Obligations.PairFormFollowsTheSequenceForm :=
  ⟨rfl, fun place _ _ => (List.foldl_hom pairOf fun s b => insertPair_pairOf place b s).symm, fun _ => rfl,
    fun _ _ _ => ⟨rfl, rfl⟩, [], [false], rfl, by decide⟩

/-- Settles O17. -/
theorem stateCodesFillTheFourBitRegister : Obligations.StateCodesFillTheFourBitRegister :=
  ⟨rfl, exists_state_of_code, tapStateOf_code⟩

/-- Settles O38: every reset leaves empty fields, and the reset state is the reset of itself. -/
theorem resetMeetsTheInvariants : Obligations.ResetMeetsTheInvariants := by
  have hreset (s : State) : s.applyReset.evenFields ∧ s.applyReset.withinCapacity := by
    rw [evenFields_iff, withinCapacity_iff]
    simp
  obtain ⟨heven, hwithin⟩ := hreset State.reset
  exact ⟨heven, hwithin, hreset⟩

end Sys2Proof
end

section
/-! PROOFS. The family of 20_memory.md: the output sequence is only appended to (R52). -/

namespace Sys2Proof.Machine

/-- A step leaves what was emitted before at the front and adds one event at most (20_memory.md R52). -/
theorem step_emitted_grows {s t : State} (h : step s = .next t) :
    ∃ es, t.emitted = s.emitted ++ es ∧ es.length ≤ 1 := by
  obtain ⟨-, -, hemitted⟩ := step_environment h
  exact ⟨t.event.toList, hemitted, by cases t.event <;> simp⟩

end Sys2Proof.Machine

namespace Sys2Proof

open Machine

/-- Settles O34, by induction on the number of steps. -/
theorem outputSequenceOnlyGrows : Obligations.OutputSequenceOnlyGrows := by
  intro k
  induction k with
  | zero =>
    intro s t h
    obtain rfl := next_unique h (runSteps_zero s)
    exact ⟨[], by simp⟩
  | succ k ih =>
    intro s t h
    obtain ⟨u, hu, hrun⟩ := runSteps_succ_inv h
    obtain ⟨first, hfirst, hone⟩ := step_emitted_grows hu
    obtain ⟨later, hlater, hlen⟩ := ih u t hrun
    refine ⟨first ++ later, by rw [hlater, hfirst, List.append_assoc], ?_⟩
    rw [List.length_append]
    omega

end Sys2Proof
end

section
/-! PROOFS. The family of 30_encoding.md: the words of both code spaces and the names' codes, the values of events and
the output ports, InvalidState, and the events of the two scans. -/

namespace Sys2Proof

/-! The two formats of words (30_encoding.md R62, R67). -/

/-- A number that names a state is the state's code. -/
theorem eq_code_of_tapStateOf {n : Nat} {p : TapState} (h : tapStateOf n = some p) : n = p.code.toNat := by
  unfold tapStateOf at h
  split at h <;> cases h <;> rfl

/-- Every number below 16 names a state (10_state.md R22). -/
theorem exists_tapStateOf {n : Nat} (h : n < 16) : ∃ p, tapStateOf n = some p := by
  obtain ⟨p, hcode⟩ := exists_state_of_code (BitVec.ofNat 4 n)
  have hn : p.code.toNat = n := by rw [hcode, BitVec.toNat_ofNat, Nat.mod_eq_of_lt h]
  exact ⟨p, hn ▸ tapStateOf_code p⟩

/-- No number from 16 on names a state (60_exceptions.md R171). -/
theorem tapStateOf_eq_none {n : Nat} (h : 16 ≤ n) : tapStateOf n = none := by
  refine Option.eq_none_iff_forall_ne_some.mpr fun p hp => ?_
  have hlt : p.code.toNat < 16 := p.code.isLt
  rw [← eq_code_of_tapStateOf hp] at hlt
  omega

theorem decode_frame_of_state {bits : Nat} {p : TapState} (h : tapStateOf (bits / 8) = some p) (a b : NatTime) :
    decode (.frame bits a b) = .ok (frameInstr p (frameOfWord bits a b)) := by
  simp only [decode, h]

theorem decode_frame_of_outside {bits : Nat} (h : 16 ≤ bits / 8) (a b : NatTime) :
    decode (.frame bits a b) = .error (.stateOutside (bits / 8)) := by
  simp only [decode, tapStateOf_eq_none h]

/-- A word whose state field is outside the 16 codes is rejected with that field. -/
theorem decode_frameWord_of_outside {n : Nat} (h : 16 ≤ n) (f : Frame) :
    decode (frameWord n f) = .error (.stateOutside n) := by
  obtain ⟨hn, -⟩ := frameWord_fields n f
  rw [frameWord, decode_frame_of_outside (by rwa [hn]), hn]

theorem toNat_beq_one (n : Nat) : (n % 2 == 1).toNat = n % 2 := by
  obtain h | h := Nat.mod_two_eq_zero_or_one n <;> simp [h]

/-- No bit of a frame operation word is dropped: the word of its state field and its frame is the word. -/
theorem frameWord_frameOfWord (bits : Nat) (a b : NatTime) :
    frameWord (bits / 8) (frameOfWord bits a b) = .frame bits a b := by
  simp only [frameWord, frameOfWord, toNat_beq_one, CodeWord.frame.injEq, and_true]
  omega

theorem encode_frameInstr (p : TapState) (f : Frame) : encode (frameInstr p f) = frameWord p.code.toNat f := by
  cases p <;> rfl

theorem wf_frameInstr (p : TapState) (f : Frame) : (frameInstr p f).wf = true := by
  cases p <;> rfl

/-- The entry of a value that no row lists is the fallback (42_ir_decode.md R155). -/
theorem decodeName_of_unlisted {v : Nat} (h : unlisted v = true) : decodeName v = .unknown := by
  rw [decodeName, (lookup_none_iff irTable v).mpr h, Option.getD_none]

/-- A value is the key of a row with its name, or no row lists it. -/
theorem decodeName_cases (v : Nat) : (v, decodeName v) ∈ irTable ∨ unlisted v = true := by
  cases hrow : irTable.lookup v with
  | none => exact .inr ((lookup_none_iff irTable v).mp hrow)
  | some n => exact .inl (by simpa [decodeName, hrow] using lookup_mem hrow)

/-- The instruction of a row is well formed, and its encoding is the row's key (42_ir_decode.md R140). -/
theorem encode_entryInstr_row :
    ∀ row ∈ irTable, encode (entryInstr row.1 row.2) = .irv row.1 ∧ (entryInstr row.1 row.2).wf = true := by
  decide

/-- The encoder goes back from the decoded instruction of an instruction-register value to the value. -/
theorem encode_entryInstr_decodeName (v : Nat) :
    encode (entryInstr v (decodeName v)) = .irv v ∧ (entryInstr v (decodeName v)).wf = true := by
  obtain hrow | hunlisted := decodeName_cases v
  · exact encode_entryInstr_row _ hrow
  · rw [decodeName_of_unlisted hunlisted]
    exact ⟨rfl, hunlisted⟩

/-- A name stands in the table at the place of its code, the fallback after the last row (30_encoding.md R68). -/
theorem name_at_code (n : InstrName) : (irTable.map Prod.snd ++ [.unknown])[n.code.toNat]? = some n := by
  cases n <;> rfl

end Sys2Proof

namespace Sys2Proof.Machine

/-! The events of a step (30_encoding.md R65). -/

/-- The state whose frame emits the register's event. -/
def updateState : RegKind → TapState
  | .dr => .updDr
  | .ir => .updIr

/-- The event of a frame in the register's update state, with its fields `x` (41_shift_accumulator.md R114, R117). -/
def updateEvent (r : RegKind) (f : Frame) (x : Bits × Bits) : Event :=
  { tStart := f.tStart, tEnd := f.tEnd, kind := r, toTarget := val x.1, toHost := val x.2,
    instruction := match r with
      | .dr => none
      | .ir => some (decodeName (val x.1)) }

theorem eq_updateState_of_isUpdate {p : TapState} (hp : isUpdate p = true) : ∃ r, p = updateState r := by
  cases p
  case updDr => exact ⟨.dr, rfl⟩
  case updIr => exact ⟨.ir, rfl⟩
  all_goals cases hp

theorem exec_updateState_event {r : RegKind} {f : Frame} {s u : State}
    (h : exec (frameInstr (updateState r) f) s = .next u) : u.event = some (updateEvent r f (s.fields r)) := by
  rw [exec_frameInstr_cases] at h
  cases r <;> cases h <;> rfl

/-- An event that a step leaves has the values of a register's two fields. -/
theorem step_event_values {s t : State} {e : Event} (h : step s = .next t) (he : t.event = some e) :
    ∃ r, e.toTarget = val (s.fields r).1 ∧ e.toHost = val (s.fields r).2 := by
  obtain ⟨-, rfl⟩ | ⟨rest, -, rfl⟩ | ⟨f, rest, -, -, rfl⟩ | ⟨f, rest, p, u, -, -, -, hu, rfl⟩ := step_cases h
  · cases he
  · cases he
  · cases he
  · cases hp : isUpdate p with
    | false => cases (exec_frameInstr_event hp hu).symm.trans he
    | true =>
      obtain ⟨r, rfl⟩ := eq_updateState_of_isUpdate hp
      cases (exec_updateState_event hu).symm.trans he
      exact ⟨r, rfl, rfl⟩

theorem val_lt_of_length_le {field : Bits} {n : Nat} (h : field.length ≤ n) : val field < 2 ^ n :=
  (val_lt field).trans_le (Nat.pow_le_pow_right (by decide) h)

/-! InvalidState, and the code of a fault (60_exceptions.md R170, R171). -/

/-- A step of a running block on a frame is what the block does with the word of its `tap` and the frame. -/
theorem step_frame_eq_runFetched {s : State} {f : Frame} {rest : List Input} (hf : s.fault = none)
    (hp : s.pending = .frame f :: rest) :
    step s = runFetched (decode (frameWord s.tap.toNat f)) (s.consume rest) := by
  simp only [step, hp, hf, fetch]

/-- A step that leaves InvalidState found it. -/
theorem step_keeps_invalidState {s t : State} {n : Nat} (h : step s = .next t)
    (ht : t.fault = some (.invalidState n)) : s.fault = some (.invalidState n) := by
  obtain ⟨-, rfl⟩ | ⟨rest, -, rfl⟩ | ⟨f, rest, -, -, rfl⟩ | ⟨f, rest, p, u, -, -, -, hu, rfl⟩ := step_cases h
  · exact ht
  · cases ht
  · exact ht
  · obtain ⟨hfault, -⟩ | ⟨r, -, -, rfl⟩ := exec_frameInstr_moves_or_faults hu
    · exact hfault.symm.trans ht
    · cases ht

/-- Code 3 is never produced (60_exceptions.md R170). -/
theorem faultCode_ne_three : ∀ cause, faultCode cause ≠ 3
  | none => (by decide : (0 : BitVec 2) ≠ 3)
  | some (.invalidState _) => (by decide : (1 : BitVec 2) ≠ 3)
  | some (.capacityExceeded _) => (by decide : (2 : BitVec 2) ≠ 3)

/-! A running block takes a frame whose shift, if any, finds room. -/

/-- The other register. -/
def otherReg : RegKind → RegKind
  | .dr => .ir
  | .ir => .dr

/-- The fields of a register after a frame taken in a state, where a shift finds room (41_shift_accumulator.md R111). -/
def fieldsAfter (r : RegKind) (p : TapState) (f : Frame) (x : Bits × Bits) : Bits × Bits :=
  if p = captureState r then ([], []) else if p = shiftState r then shifted r f x else x

@[simp] theorem fieldsAfter_captureState (r : RegKind) (f : Frame) (x : Bits × Bits) :
    fieldsAfter r (captureState r) f x = ([], []) := by
  simp [fieldsAfter]

@[simp] theorem fieldsAfter_shiftState (r : RegKind) (f : Frame) (x : Bits × Bits) :
    fieldsAfter r (shiftState r) f x = shifted r f x := by
  cases r <;> rfl

theorem fieldsAfter_of_ne {r : RegKind} {p : TapState} (hcap : p ≠ captureState r) (hshift : p ≠ shiftState r)
    (f : Frame) (x : Bits × Bits) : fieldsAfter r p f x = x := by
  rw [fieldsAfter, if_neg hcap, if_neg hshift]

/-- The instruction of a frame, where its shift finds room, moves `tap` and leaves the fields of each register as
`fieldsAfter` says. -/
theorem exec_frameInstr_of_room {p : TapState} {s u : State} {f : Frame}
    (hroom : ∀ r, p = shiftState r → s.full r = false) (h : exec (frameInstr p f) s = .next u) :
    u.fault = s.fault ∧ u.tap = (transition p f.c).code ∧ ∀ r, u.fields r = fieldsAfter r p f (s.fields r) := by
  obtain ⟨hfault, htap⟩ | ⟨r, hr, hfull, -⟩ := exec_frameInstr_moves_or_faults h
  · refine ⟨hfault, htap, fun r => ?_⟩
    rw [exec_frameInstr_cases] at h
    cases p
    case shDr =>
      have hdr : s.drFull = false := hroom .dr rfl
      simp only [hdr] at h
      cases h
      cases r <;> rfl
    case shIr =>
      have hir : s.irFull = false := hroom .ir rfl
      simp only [hir] at h
      cases h
      cases r <;> rfl
    all_goals
      cases h
      cases r <;> rfl
  · rw [hroom r hr] at hfull
    cases hfull

/-! Scans (30_encoding.md R72). -/

/-- The fields of a register after the bit pairs of a scan, in shift order. -/
def shiftedAll (r : RegKind) (bits : List (Bit × Bit)) (x : Bits × Bits) : Bits × Bits :=
  match r with
  | .dr => (x.1 ++ bits.map Prod.fst, (bits.map Prod.snd).reverse ++ x.2)
  | .ir => ((bits.map Prod.fst).reverse ++ x.1, x.2 ++ bits.map Prod.snd)

theorem shifted_eq_shiftedAll (r : RegKind) (f : Frame) (x : Bits × Bits) :
    shifted r f x = shiftedAll r [(f.t, f.h)] x := by
  cases r <;> rfl

theorem shiftedAll_append (r : RegKind) (bits later : List (Bit × Bit)) (x : Bits × Bits) :
    shiftedAll r later (shiftedAll r bits x) = shiftedAll r (bits ++ later) x := by
  cases r <;> simp [shiftedAll]

/-- The capacity has room for `m` bits more in each of two fields (10_state.md R28). -/
def roomFor (m : Nat) (bufMax : Option Nat) (x : Bits × Bits) : Prop :=
  ∀ n, bufMax = some n → x.1.length + m ≤ n ∧ x.2.length + m ≤ n

theorem full_eq_false_of_roomFor {m : Nat} {r : RegKind} {s : State}
    (h : roomFor (m + 1) s.cfg.bufMax (s.fields r)) : s.full r = false := by
  rw [Bool.eq_false_iff, Ne, full_iff]
  rintro (hn | hn)
  · have := (h _ hn).1
    omega
  · have := (h _ hn).2
    omega

theorem roomFor_shiftedAll {bits : List (Bit × Bit)} {m : Nat} {bufMax : Option Nat} {x : Bits × Bits} (r : RegKind)
    (h : roomFor (bits.length + m) bufMax x) : roomFor m bufMax (shiftedAll r bits x) := by
  intro n hn
  obtain ⟨htt, hth⟩ := h n hn
  cases r <;> simp only [shiftedAll, List.length_append, List.length_reverse, List.length_map] <;> omega

theorem length_shiftFrames (b : Bit × Bit) (bits : List (Bit × Bit)) :
    (shiftFrames (b :: bits)).length = bits.length + 1 := by
  induction bits generalizing b with
  | nil => rfl
  | cons b' bits ih => rw [shiftFrames, List.length_cons, ih, List.length_cons]

/-- The states whose action is NOP (41_shift_accumulator.md R118). -/
def isNop : TapState → Bool
  | .capDr | .shDr | .updDr | .capIr | .shIr | .updIr => false
  | _ => true

theorem of_isNop {p : TapState} (h : isNop p = true) :
    isUpdate p = false ∧ (∀ r, p ≠ captureState r) ∧ ∀ r, p ≠ shiftState r := by
  refine ⟨Bool.eq_false_iff.mpr fun hp => ?_, fun r hp => ?_, fun r hp => ?_⟩
  · obtain ⟨r, rfl⟩ := eq_updateState_of_isUpdate hp
    cases r <;> cases h
  · subst hp
    cases r <;> cases h
  · subst hp
    cases r <;> cases h

theorem updateState_ne_captureState (q r : RegKind) : updateState q ≠ captureState r := by
  cases q <;> cases r <;> decide

theorem updateState_ne_shiftState (q r : RegKind) : updateState q ≠ shiftState r := by
  cases q <;> cases r <;> decide

/-- The run from `s₀`, to which the frames of a scan of register `r` are presented from time `k` on and then `rest`, is
in state `p` after `j` frames: `todo` are the frames to come, `x` the register's fields, `es` the events so far. -/
structure ScanAt (s₀ : State) (r : RegKind) (k : Nat) (rest : List Input) (j : Nat) (p : TapState) (x : Bits × Bits)
    (es : List Event) (todo : List Cth) (s : State) : Prop where
  run : runSteps j s₀ = .next s
  tap : s.tap = p.code
  fault : s.fault = none
  cfg : s.cfg = s₀.cfg
  pending : s.pending = (stampFrom (k + j) todo).map InputOf.frame ++ rest
  fields : s.fields r = x
  others : s.fields (otherReg r) = s₀.fields (otherReg r)
  emitted : s.emitted = s₀.emitted ++ es

theorem runSteps_concat {s t u : State} {j : Nat} (hrun : runSteps j s = .next t) (h : step t = .next u) :
    runSteps (j + 1) s = .next u := by
  rw [runSteps_add hrun, runSteps_succ h, runSteps_zero]

section
variable {s₀ s : State} {r : RegKind} {k : Nat} {rest : List Input} {j : Nat} {p : TapState} {x : Bits × Bits}
  {es : List Event} {todo : List Cth}

/-- The next frame of a scan, taken in a state that does not act on the other register. -/
theorem ScanAt.next_frame {c t h : Bit} (hs : ScanAt s₀ r k rest j p x es ((c, t, h) :: todo) s)
    (hcap : p ≠ captureState (otherReg r)) (hshift : p ≠ shiftState (otherReg r))
    (hroom : p = shiftState r → roomFor 1 s₀.cfg.bufMax x) :
    ∃ u, ScanAt s₀ r k rest (j + 1) (transition p c) (fieldsAfter r p ⟨k + j, k + j + 1, c, t, h⟩ x)
        (es ++ u.event.toList) todo u ∧
      (isUpdate p = false → u.event = none) ∧
      ∀ q, p = updateState q → u.event = some (updateEvent q ⟨k + j, k + j + 1, c, t, h⟩ (s.fields q)) := by
  obtain ⟨hrun, htap, hfault, hcfg, hpending, rfl, hothers, hemitted⟩ := hs
  set f : Frame := ⟨k + j, k + j + 1, c, t, h⟩
  set rest' := (stampFrom (k + j + 1) todo).map InputOf.frame ++ rest
  obtain ⟨u, hu, -⟩ := exec_frameInstr_next p f (s.consume rest')
  have hstep : step s = .next u.deliver := step_frame_next hpending hfault htap hu
  have hfull : ∀ q, p = shiftState q → (s.consume rest').full q = false := by
    intro q hq
    obtain rfl | rfl : q = r ∨ q = otherReg r := by cases q <;> cases r <;> simp [otherReg]
    · rw [full_consume]
      exact full_eq_false_of_roomFor (m := 0) (hcfg ▸ hroom hq)
    · exact absurd hq hshift
  obtain ⟨hrunning, hmove, hfields⟩ := exec_frameInstr_of_room hfull hu
  obtain ⟨hcfg', hpending', hemitted'⟩ := step_environment hstep
  refine ⟨u.deliver, ⟨runSteps_concat hrun hstep, hmove, hrunning.trans hfault, hcfg'.trans hcfg, ?_, hfields r, ?_, ?_⟩,
    fun hquiet => (exec_frameInstr_event hquiet hu :), fun q hq => ?_⟩
  · rw [hpending', hpending]
    rfl
  · exact (hfields (otherReg r)).trans ((fieldsAfter_of_ne hcap hshift _ _).trans hothers)
  · rw [hemitted', hemitted, List.append_assoc]
  · subst hq
    exact (exec_updateState_event hu :)

/-- A frame of a scan whose action is NOP moves `tap` only. -/
theorem ScanAt.nop_frame {c t h : Bit} (hs : ScanAt s₀ r k rest j p x es ((c, t, h) :: todo) s)
    (hnop : isNop p = true) : ∃ u, ScanAt s₀ r k rest (j + 1) (transition p c) x es todo u := by
  obtain ⟨hquiet, hcap, hshift⟩ := of_isNop hnop
  obtain ⟨u, hu, hevent, -⟩ := hs.next_frame (hcap _) (hshift _) fun hp => absurd hp (hshift r)
  rw [fieldsAfter_of_ne (hcap r) (hshift r), hevent hquiet, Option.toList_none, List.append_nil] at hu
  exact ⟨u, hu⟩

/-- The frame of a scan in the capture state clears the fields. -/
theorem ScanAt.capture_frame {c t h : Bit} (hs : ScanAt s₀ r k rest j (captureState r) x es ((c, t, h) :: todo) s) :
    ∃ u, ScanAt s₀ r k rest (j + 1) (transition (captureState r) c) ([], []) es todo u := by
  obtain ⟨u, hu, hevent, -⟩ := hs.next_frame (by cases r <;> decide) (by cases r <;> decide)
    fun hp => absurd hp (by cases r <;> decide)
  rw [fieldsAfter_captureState, hevent (by cases r <;> rfl), Option.toList_none, List.append_nil] at hu
  exact ⟨u, hu⟩

/-- A frame of a scan in the shift state inserts its two bits. -/
theorem ScanAt.shift_frame {c t h : Bit} (hs : ScanAt s₀ r k rest j (shiftState r) x es ((c, t, h) :: todo) s)
    (hroom : roomFor 1 s₀.cfg.bufMax x) :
    ∃ u, ScanAt s₀ r k rest (j + 1) (transition (shiftState r) c) (shiftedAll r [(t, h)] x) es todo u := by
  obtain ⟨u, hu, hevent, -⟩ := hs.next_frame (by cases r <;> decide) (by cases r <;> decide) fun _ => hroom
  rw [fieldsAfter_shiftState, shifted_eq_shiftedAll, hevent (by cases r <;> rfl), Option.toList_none,
    List.append_nil] at hu
  exact ⟨u, hu⟩

/-- The shift frames of a scan insert all their bits; the last one leaves the shift state. -/
theorem ScanAt.shift_frames {b : Bit × Bit} {bits : List (Bit × Bit)}
    (hs : ScanAt s₀ r k rest j (shiftState r) x es (shiftFrames (b :: bits) ++ todo) s)
    (hroom : roomFor (bits.length + 1) s₀.cfg.bufMax x) :
    ∃ u, ScanAt s₀ r k rest (j + (bits.length + 1)) (transition (shiftState r) true) (shiftedAll r (b :: bits) x) es
      todo u := by
  obtain ⟨t, h⟩ := b
  induction bits generalizing t h j x s with
  | nil => exact hs.shift_frame hroom
  | cons b bits ih =>
    obtain ⟨u, hu⟩ := hs.shift_frame (c := false) fun n hn => by
      obtain ⟨htt, hth⟩ := hroom n hn
      omega
    have hstay : transition (shiftState r) false = shiftState r := by cases r <;> rfl
    rw [hstay] at hu
    have hroom' : roomFor (bits.length + 1) s₀.cfg.bufMax (shiftedAll r [(t, h)] x) :=
      roomFor_shiftedAll r (by simpa [Nat.add_comm 1] using hroom)
    obtain ⟨v, hv⟩ := ih hroom' _ _ hu
    rw [shiftedAll_append] at hv
    exact ⟨v, by simpa [Nat.add_assoc, Nat.add_comm 1] using hv⟩

/-- The frame of a scan in the update state emits the register's event. -/
theorem ScanAt.update_frame {c t h : Bit} (hs : ScanAt s₀ r k rest j (updateState r) x es ((c, t, h) :: todo) s) :
    ∃ u, ScanAt s₀ r k rest (j + 1) (transition (updateState r) c) x
        (es ++ [updateEvent r ⟨k + j, k + j + 1, c, t, h⟩ x]) todo u ∧
      u.event = some (updateEvent r ⟨k + j, k + j + 1, c, t, h⟩ x) := by
  obtain ⟨u, hu, -, hevent⟩ := hs.next_frame (updateState_ne_captureState r _) (updateState_ne_shiftState r _)
    fun hp => absurd hp (updateState_ne_shiftState r r)
  have he := hevent r rfl
  rw [hs.fields] at he
  rw [fieldsAfter_of_ne (updateState_ne_captureState r r) (updateState_ne_shiftState r r), he] at hu
  exact ⟨u, hu, he⟩

/-- The first frame of a scan goes to SELECT-DR-SCAN; in an update state it emits one event. -/
theorem exists_scanAt_selDr (r : RegKind) (hfault : s₀.fault = none) (htap : s₀.tap ∈ [1, 8, 15])
    (hpending : s₀.pending = (stampFrom k (one :: todo)).map InputOf.frame ++ rest) :
    ∃ u es, ScanAt s₀ r k rest 1 .selDr (s₀.fields r) es todo u ∧ es.length = if s₀.tap = 1 then 0 else 1 := by
  have hstart (p : TapState) (hp : s₀.tap = p.code) : ScanAt s₀ r k rest 0 p (s₀.fields r) [] (one :: todo) s₀ :=
    ⟨rfl, hp, hfault, rfl, hpending, rfl, rfl, by simp⟩
  simp only [List.mem_cons, List.not_mem_nil, or_false] at htap
  have hfrom : s₀.tap = TapState.code .rti ∨ ∃ q, s₀.tap = (updateState q).code := by
    obtain hrti | hdr | hir := htap
    exacts [.inl hrti, .inr ⟨.dr, hdr⟩, .inr ⟨.ir, hir⟩]
  obtain hrti | ⟨q, hq⟩ := hfrom
  · obtain ⟨u, hu⟩ := (hstart .rti hrti).nop_frame rfl
    exact ⟨u, [], hu, by rw [hrti]; rfl⟩
  · obtain ⟨u, hu, -, hevent⟩ := (hstart _ hq).next_frame (updateState_ne_captureState q _)
      (updateState_ne_shiftState q _) fun hp => absurd hp (updateState_ne_shiftState q r)
    have hnext : transition (updateState q) true = .selDr := by cases q <;> rfl
    rw [hnext, fieldsAfter_of_ne (updateState_ne_captureState q r) (updateState_ne_shiftState q r),
      hevent q rfl] at hu
    exact ⟨u, _, hu, by rw [hq]; cases q <;> rfl⟩

/-- The run from `s₀` has taken the `n` frames of a scan whose bits leave the fields `x`: it is in RUN-TEST/IDLE, and the
last frame's event is the register's; the first frame has an event only where it is taken in an update state. -/
def ScanEnds (s₀ : State) (r : RegKind) (k : Nat) (rest : List Input) (n : Nat) (x : Bits × Bits) : Prop :=
  ∃ t f es, ScanAt s₀ r k rest n .rti x (es ++ [updateEvent r f x]) [] t ∧ t.event = some (updateEvent r f x) ∧
    es.length = (if s₀.tap = 1 then 0 else 1) ∧ f.tEnd = k + n ∧ f.tStart + 1 = f.tEnd

/-- The last frame of a scan. -/
theorem ScanAt.ends (hs : ScanAt s₀ r k rest j (updateState r) x es [zero] s)
    (hes : es.length = if s₀.tap = 1 then 0 else 1) : ScanEnds s₀ r k rest (j + 1) x := by
  obtain ⟨t, ht, hevent⟩ := hs.update_frame
  have hnext : transition (updateState r) false = .rti := by cases r <;> rfl
  rw [hnext] at ht
  exact ⟨t, _, es, ht, hevent, hes, rfl, rfl⟩

/-- A scan of one bit or more, from its CAPTURE frame on. -/
theorem ScanAt.ends_of_capture {b : Bit × Bit} {bits : List (Bit × Bit)}
    (hs : ScanAt s₀ r k rest j (captureState r) x es (zero :: (shiftFrames (b :: bits) ++ [one, zero])) s)
    (hroom : ∀ n, s₀.cfg.bufMax = some n → bits.length + 1 ≤ n) (hes : es.length = if s₀.tap = 1 then 0 else 1) :
    ScanEnds s₀ r k rest (j + bits.length + 4) (shiftedAll r (b :: bits) ([], [])) := by
  have hshift : transition (captureState r) false = shiftState r := by cases r <;> rfl
  have hexit : isNop (transition (shiftState r) true) = true := by cases r <;> rfl
  have hupdate : transition (transition (shiftState r) true) true = updateState r := by cases r <;> rfl
  obtain ⟨s₁, h₁⟩ := hs.capture_frame
  rw [hshift] at h₁
  obtain ⟨s₂, h₂⟩ := h₁.shift_frames fun n hn => by simpa using hroom n hn
  obtain ⟨s₃, h₃⟩ := h₂.nop_frame hexit
  rw [hupdate] at h₃
  convert h₃.ends hes using 1
  omega

/-- SCAN_DR ends with the DR event of its bits. -/
theorem scanDr_ends {bits : List (Bit × Bit)} (hfault : s₀.fault = none) (htap : s₀.tap ∈ [1, 8, 15])
    (hroom : ∀ n, s₀.cfg.bufMax = some n → bits.length ≤ n)
    (hpending : s₀.pending = (stampFrom k (scanDr bits)).map InputOf.frame ++ rest) :
    ScanEnds s₀ .dr k rest (scanDr bits).length (shiftedAll .dr bits ([], [])) := by
  cases bits with
  | nil =>
    obtain ⟨s₁, es, h₁, hes⟩ := exists_scanAt_selDr .dr hfault htap hpending
    obtain ⟨s₂, h₂⟩ := h₁.nop_frame rfl
    obtain ⟨s₃, h₃⟩ := ScanAt.capture_frame (r := .dr) h₂
    obtain ⟨s₄, h₄⟩ := h₃.nop_frame rfl
    exact ScanAt.ends (r := .dr) h₄ hes
  | cons b bits =>
    obtain ⟨s₁, es, h₁, hes⟩ := exists_scanAt_selDr .dr hfault htap hpending
    obtain ⟨s₂, h₂⟩ := h₁.nop_frame rfl
    have hlen : (scanDr (b :: bits)).length = 2 + bits.length + 4 := by
      simp only [scanDr, List.length_append, length_shiftFrames, List.length_cons, List.length_nil]
      omega
    rw [hlen]
    exact ScanAt.ends_of_capture (r := .dr) h₂ hroom hes

/-- SCAN_IR ends with the IR event of its bits. -/
theorem scanIr_ends {b : Bit × Bit} {bits : List (Bit × Bit)} (hfault : s₀.fault = none) (htap : s₀.tap ∈ [1, 8, 15])
    (hroom : ∀ n, s₀.cfg.bufMax = some n → bits.length + 1 ≤ n)
    (hpending : s₀.pending = (stampFrom k (scanIr b bits)).map InputOf.frame ++ rest) :
    ScanEnds s₀ .ir k rest (scanIr b bits).length (shiftedAll .ir (b :: bits) ([], [])) := by
  obtain ⟨s₁, es, h₁, hes⟩ := exists_scanAt_selDr .ir hfault htap hpending
  obtain ⟨s₂, h₂⟩ := h₁.nop_frame rfl
  obtain ⟨s₃, h₃⟩ := h₂.nop_frame rfl
  have hlen : (scanIr b bits).length = 3 + bits.length + 4 := by
    simp only [scanIr, List.length_append, length_shiftFrames, List.length_cons, List.length_nil]
    omega
  rw [hlen]
  exact ScanAt.ends_of_capture (r := .ir) h₃ hroom hes

end

end Sys2Proof.Machine

namespace Sys2Proof

open Machine

/-- Settles O15: a FRAME row by the word of its state, an entry of the table by its key. -/
theorem decodeOfEncodeIsTheInstruction : Obligations.DecodeOfEncodeIsTheInstruction
  | .nopTlr f, _ => decode_frameWord .tlr f
  | .nopRti f, _ => decode_frameWord .rti f
  | .nopSelDr f, _ => decode_frameWord .selDr f
  | .drClearCapDr f, _ => decode_frameWord .capDr f
  | .drShiftShDr f, _ => decode_frameWord .shDr f
  | .nopEx1Dr f, _ => decode_frameWord .ex1Dr f
  | .nopPauDr f, _ => decode_frameWord .pauDr f
  | .nopEx2Dr f, _ => decode_frameWord .ex2Dr f
  | .drUpdateUpdDr f, _ => decode_frameWord .updDr f
  | .nopSelIr f, _ => decode_frameWord .selIr f
  | .irClearCapIr f, _ => decode_frameWord .capIr f
  | .irShiftShIr f, _ => decode_frameWord .shIr f
  | .nopEx1Ir f, _ => decode_frameWord .ex1Ir f
  | .nopPauIr f, _ => decode_frameWord .pauIr f
  | .nopEx2Ir f, _ => decode_frameWord .ex2Ir f
  | .irUpdateUpdIr f, _ => decode_frameWord .updIr f
  | .irAddr16bit, _ | .irAddrCapture, _ | .irDataToAddr, _ | .irData16bit, _ | .irDataQuick, _ | .irBypass, _
  | .irCntrlSig16bit, _ | .irCntrlSigCapture, _ | .irCntrlSigRelease, _ | .irDataPsa, _ | .irShiftOutPsa, _
  | .irPrepareBlow, _ | .irExBlow, _ | .irJmbExchange, _ => rfl
  | .unknown v, hunlisted => by
    rw [encode, decode, decodeName_of_unlisted hunlisted]
    rfl

/-- Settles O16: a frame word by its state field, an instruction-register value by the row that lists it or by none. -/
theorem encodeOfDecodeIsTheWord : Obligations.EncodeOfDecodeIsTheWord := by
  intro w i h
  cases w with
  | frame bits a b =>
    by_cases houtside : 16 ≤ bits / 8
    · rw [decode_frame_of_outside houtside] at h
      cases h
    · obtain ⟨p, hp⟩ := exists_tapStateOf (Nat.lt_of_not_le houtside)
      rw [decode_frame_of_state hp] at h
      cases h
      rw [encode_frameInstr, ← eq_code_of_tapStateOf hp]
      exact ⟨frameWord_frameOfWord bits a b, wf_frameInstr p _⟩
  | irv v =>
    cases h
    exact encode_entryInstr_decodeName v

/-- Settles O49, from the end of SCAN_DR: its bits stand in the to-target field in shift order, in the to-host field
reversed. -/
theorem drScanReportsTheShiftedBits : Obligations.DrScanReportsTheShiftedBits := by
  intro bits k s rest hfault htap hroom hpending
  obtain ⟨t, f, es, ht, hevent, hes, hend, hstart⟩ := scanDr_ends hfault htap hroom hpending
  obtain ⟨hirTt, hirTh⟩ := Prod.mk.inj ht.others
  refine ⟨t, _, es, ht.run, ht.tap, ht.fault, ht.pending, hirTt, hirTh, hevent, ?_, hes, rfl, ?_, ?_, rfl, hend, hstart⟩
  · rw [ht.emitted, List.append_assoc]
  · rw [← val_eq_msbFirstSum]
    rfl
  · rw [← val_reverse]
    exact congrArg val (List.append_nil _)

/-- Settles O50, from the end of SCAN_IR: its bits stand in the to-target field reversed, in the to-host field in shift
order. -/
theorem irScanReportsAndDecodesTheShiftedBits : Obligations.IrScanReportsAndDecodesTheShiftedBits := by
  intro b bits k s rest hfault htap hroom hpending
  obtain ⟨t, f, es, ht, hevent, hes, hend, hstart⟩ := scanIr_ends hfault htap hroom hpending
  obtain ⟨hdrTt, hdrTh⟩ := Prod.mk.inj ht.others
  have htarget : val (shiftedAll .ir (b :: bits) ([], [])).1 = lsbFirstSum ((b :: bits).map Prod.fst) := by
    rw [← val_reverse]
    exact congrArg val (List.append_nil _)
  refine ⟨t, _, es, ht.run, ht.tap, ht.fault, ht.pending, hdrTt, hdrTh, hevent, ?_, hes, rfl, htarget, ?_, ?_, hend,
    hstart⟩
  · rw [ht.emitted, List.append_assoc]
  · rw [← val_eq_msbFirstSum]
    rfl
  · rw [← htarget]
    rfl

/-- Settles O14: a row by the word of its state; of the rest, the words below 128 by their state field. -/
theorem frameWordsDecodeByTheirStateField : Obligations.FrameWordsDecodeByTheirStateField := by
  refine ⟨?_, fun w a b hw => ?_, fun w a b hw => ?_⟩
  · change ∀ row ∈ [TapState.tlr, .rti, .selDr, .capDr, .shDr, .ex1Dr, .pauDr, .ex2Dr, .updDr, .selIr, .capIr, .shIr,
      .ex1Ir, .pauIr, .ex2Ir, .updIr].map fun p => (p.code.toNat, frameInstr p), _
    rw [List.forall_mem_map]
    exact fun p _ => decode_frameWord p
  · obtain ⟨p, hp⟩ := exists_tapStateOf (n := w / 8) (by omega)
    exact ⟨_, decode_frame_of_state hp a b⟩
  · exact decode_frame_of_outside (by omega) a b

/-- Settles O27: the first clause by the cases of a step, the next two by the rejection of the word. -/
theorem invalidStateIsNeverRaised : Obligations.InvalidStateIsNeverRaised := by
  refine ⟨fun s t n => step_keeps_invalidState, fun n f hn => ⟨?_, rfl⟩, fun n f s hn => ?_,
    fun s f rest => step_frame_eq_runFetched⟩
  · exact decode_frameWord_of_outside hn f
  · rw [decode_frameWord_of_outside hn f]
    rfl

/-- Settles O39: the values of an event are those of two fields within the capacity. -/
theorem eventValuesFitTheCapacity : Obligations.EventValuesFitTheCapacity := by
  intro s t n e hwithin hn h he
  obtain ⟨r, htarget, hhost⟩ := step_event_values h he
  obtain ⟨htt, hth⟩ := (withinCapacity_iff s).mp hwithin n hn r
  rw [htarget, hhost]
  exact ⟨val_lt_of_length_le htt, val_lt_of_length_le hth⟩

/-- Settles O13. -/
theorem writtenOutWordsDecode : Obligations.WrittenOutWordsDecode :=
  ⟨rfl, rfl, rfl, rfl, rfl, rfl, rfl, rfl, rfl⟩

/-- Settles O18: a name is found at the place of its code, and there are 15 places. -/
theorem nameCodesFollowTheTable : Obligations.NameCodesFollowTheTable := by
  refine ⟨rfl, rfl, fun n h => ?_, fun m n h => ?_⟩
  · have hplace := name_at_code n
    rw [h] at hplace
    cases hplace
  · have hplace := name_at_code m
    rw [h, name_at_code] at hplace
    exact (Option.some.inj hplace).symm

/-- Settles O57: the ports with an event, those without one, and the fault port. -/
theorem portsShowTheEventAndTheFault : Obligations.PortsShowTheEventAndTheFault := by
  refine ⟨fun s e he => ?_, fun s he => ?_, fun s => ?_⟩
  · have hkind : regKindCode e.kind = if e.kind = .ir then 1 else 0 := by cases e.kind <;> rfl
    simp +contextual [State.evValid, State.evKind, State.evToTarget, State.evToHost, State.evTStart, State.evTEnd,
      State.evInstr, he, hkind]
  · simp [State.evValid, State.evKind, State.evToTarget, State.evToHost, State.evTStart, State.evTEnd,
      State.evInstr, he]
  · refine ⟨fun hf => ?_, fun n hf => ?_, fun p hf => ?_, ?_⟩
    · rw [State.faultPort, hf, faultCode]
    · rw [State.faultPort, hf, faultCode]
    · rw [State.faultPort, hf, faultCode]
    · rw [State.faultPort]
      exact faultCode_ne_three s.fault

/-- Settles O58. -/
theorem eventTextFollowsTheTemplates : Obligations.EventTextFollowsTheTemplates :=
  fun _ _ _ _ _ _ => ⟨rfl, rfl⟩

end Sys2Proof
end

section
/-! PROOFS. The family of 40_tap_fsm.md: the state rules, the table read backwards, the walks to
TEST-LOGIC-RESET and into a column, and the runs over frames with `c = 1`. -/

namespace Sys2Proof.Machine

/-! The state rules (40_tap_fsm.md R81 to R96). -/

/-- A frame taken in state `p` before its action: `tap` takes the code that the table gives for `c = 1` or
for `c = 0`. -/
def State.moved (p : TapState) (c : Bit) (s : State) : State :=
  { s with tap := if c then (transition p true).code else (transition p false).code, event := none }

theorem advance_eq_moved (p : TapState) (c : Bit) (s : State) : s.advance p c = s.moved p c := by
  cases c <;> rfl

/-- A state rule follows from the effect of the instruction, where the effect neither reads nor writes what the step
itself writes: the inputs and the output sequence. -/
theorem frameRule_of_exec {p : TapState} {ok : State → Prop} {post : Frame → State → State}
    (hexec : ∀ f s, ok s → exec (frameInstr p f) s = .next (post f s))
    (hok : ∀ rest s, ok s → ok (s.consume rest))
    (hpost : ∀ f rest s, (post f (s.consume rest)).deliver =
      { post f s with pending := rest, emitted := s.emitted ++ (post f s).event.toList }) :
    frameRule p.code (frameInstr p) ok post := by
  refine ⟨hexec, fun f rest s hs hf htap hp => ?_⟩
  rw [step_frame_next hp hf htap (hexec f _ (hok rest s hs)), hpost]

/-- NOP writes `tap` only (41_shift_accumulator.md R118). -/
theorem exec_frameInstr_of_isNop {p : TapState} (h : isNop p = true) (f : Frame) (s : State) :
    exec (frameInstr p f) s = .next (s.moved p f.c) := by
  rw [exec_frameInstr_cases, ← advance_eq_moved]
  cases p
  case capDr | shDr | updDr | capIr | shIr | updIr => cases h
  all_goals rfl

/-- CLEAR empties both fields of its register (41_shift_accumulator.md R112, R115). -/
theorem exec_captureState (r : RegKind) (f : Frame) (s : State) :
    exec (frameInstr (captureState r) f) s = .next ((s.moved (captureState r) f.c).setFields r ([], [])) := by
  rw [exec_frameInstr_cases, ← advance_eq_moved]
  cases r <;> rfl

/-- SHIFT inserts a bit into each field of its register, where neither is full (41_shift_accumulator.md R113, R116). -/
theorem exec_shiftState_of_room {r : RegKind} {s : State} (h : s.full r = false) (f : Frame) :
    exec (frameInstr (shiftState r) f) s =
      .next ((s.moved (shiftState r) f.c).setFields r (shifted r f (s.fields r))) := by
  rw [exec_frameInstr_cases, ← advance_eq_moved]
  cases r
  · have hdr : s.drFull = false := h
    simp only [shiftState, hdr]
    rfl
  · have hir : s.irFull = false := h
    simp only [shiftState, hir]
    rfl

/-- SHIFT on a full field takes the fault and does nothing else (60_exceptions.md R172, R174). -/
theorem exec_shiftState_of_full {r : RegKind} {s : State} (h : s.full r = true) (f : Frame) :
    exec (frameInstr (shiftState r) f) s = .next (s.takeFault (.capacityExceeded (shiftState r))) := by
  rw [exec_frameInstr_cases]
  cases r
  · exact if_pos h
  · exact if_pos h

/-- UPDATE emits its register's event (41_shift_accumulator.md R114, R117). -/
theorem exec_updateState (r : RegKind) (f : Frame) (s : State) :
    exec (frameInstr (updateState r) f) s =
      .next { s.moved (updateState r) f.c with event := some (updateEvent r f (s.fields r)) } := by
  rw [exec_frameInstr_cases, ← advance_eq_moved]
  cases r <;> rfl

theorem nopRule_frameInstr {p : TapState} (h : isNop p = true) :
    nopRule p.code (frameInstr p) (transition p true).code (transition p false).code :=
  frameRule_of_exec (fun f s _ => exec_frameInstr_of_isNop h f s) (fun _ _ => id) fun _ _ _ => rfl

theorem frameRule_captureState (r : RegKind) :
    frameRule (captureState r).code (frameInstr (captureState r)) (fun _ => True) fun f s =>
      (s.moved (captureState r) f.c).setFields r ([], []) :=
  frameRule_of_exec (fun f s _ => exec_captureState r f s) (fun _ _ => id) fun _ _ _ => by cases r <;> rfl

/-- Both fields of the register have room for a bit. -/
def State.hasRoomIn (r : RegKind) (s : State) : Prop :=
  hasRoom s.cfg.bufMax (s.fields r).1 ∧ hasRoom s.cfg.bufMax (s.fields r).2

theorem not_hasRoomIn_iff (r : RegKind) (s : State) : ¬s.hasRoomIn r ↔ s.full r = true := by
  rw [full_iff, State.hasRoomIn, hasRoom, hasRoom]
  tauto

theorem frameRule_shiftState_of_room (r : RegKind) :
    frameRule (shiftState r).code (frameInstr (shiftState r)) (State.hasRoomIn r) fun f s =>
      (s.moved (shiftState r) f.c).setFields r (shifted r f (s.fields r)) := by
  refine frameRule_of_exec (fun f s hroom => exec_shiftState_of_room ?_ f) (fun _ _ => id)
    fun _ _ _ => by cases r <;> rfl
  exact Bool.eq_false_iff.mpr fun hfull => (not_hasRoomIn_iff r s).mpr hfull hroom

theorem frameRule_shiftState_of_full (r : RegKind) :
    frameRule (shiftState r).code (frameInstr (shiftState r)) (fun s => ¬s.hasRoomIn r) fun _ s =>
      s.takeFault (.capacityExceeded (shiftState r)) :=
  frameRule_of_exec (fun f s hfull => exec_shiftState_of_full ((not_hasRoomIn_iff r s).mp hfull) f) (fun _ _ => id)
    fun _ _ _ => rfl

theorem frameRule_updateState (r : RegKind) :
    frameRule (updateState r).code (frameInstr (updateState r)) (fun _ => True) fun f s =>
      { s.moved (updateState r) f.c with event := some (updateEvent r f (s.fields r)) } :=
  frameRule_of_exec (fun f s _ => exec_updateState r f s) (fun _ _ => id) fun _ _ _ => by cases r <;> rfl

/-! The table of the transition function, read backwards (40_tap_fsm.md R80). -/

/-- The pairs of a state and a control bit that lead to a state. -/
def predecessors : TapState → List (TapState × Bit)
  | .tlr => [(.tlr, true), (.selIr, true)]
  | .rti => [(.tlr, false), (.rti, false), (.updDr, false), (.updIr, false)]
  | .selDr => [(.rti, true), (.updDr, true), (.updIr, true)]
  | .capDr => [(.selDr, false)]
  | .shDr => [(.capDr, false), (.shDr, false), (.ex2Dr, false)]
  | .ex1Dr => [(.capDr, true), (.shDr, true)]
  | .pauDr => [(.ex1Dr, false), (.pauDr, false)]
  | .ex2Dr => [(.pauDr, true)]
  | .updDr => [(.ex1Dr, true), (.ex2Dr, true)]
  | .selIr => [(.selDr, true)]
  | .capIr => [(.selIr, false)]
  | .shIr => [(.capIr, false), (.shIr, false), (.ex2Ir, false)]
  | .ex1Ir => [(.capIr, true), (.shIr, true)]
  | .pauIr => [(.ex1Ir, false), (.pauIr, false)]
  | .ex2Ir => [(.pauIr, true)]
  | .updIr => [(.ex1Ir, true), (.ex2Ir, true)]

theorem transition_eq_iff (p q : TapState) (c : Bit) : transition p c = q ↔ (p, c) ∈ predecessors q := by
  have hback : ∀ x ∈ predecessors q, transition x.1 x.2 = q := by cases q <;> decide
  refine ⟨?_, hback (p, c)⟩
  rintro rfl
  cases p <;> cases c <;> decide

theorem transition_eq_self_iff (p : TapState) (c : Bit) :
    transition p c = p ↔ (p, c) ∈ [(TapState.tlr, true), (.rti, false), (.shDr, false), (.pauDr, false),
      (.shIr, false), (.pauIr, false)] := by
  cases p <;> cases c <;> decide

theorem transition_mirror :
    ∀ p ∈ [TapState.capDr, .shDr, .ex1Dr, .pauDr, .ex2Dr], ∀ c, transition (mirror p) c = mirror (transition p c) := by
  decide

/-! Walks (40_tap_fsm.md R98, R99, R101). -/

@[simp] theorem walk_nil (p : TapState) : walk p [] = p := rfl

@[simp] theorem walk_cons (p : TapState) (c : Bit) (cs : List Bit) : walk p (c :: cs) = walk (transition p c) cs := rfl

theorem walk_append (p : TapState) (cs ds : List Bit) : walk p (cs ++ ds) = walk (walk p cs) ds :=
  List.foldl_append

/-- How many ones lead from a state to TEST-LOGIC-RESET (40_tap_fsm.md R98). -/
def onesToTlr : TapState → Nat
  | .tlr => 0
  | .selIr => 1
  | .selDr => 2
  | .rti | .updDr | .updIr => 3
  | .ex1Dr | .ex2Dr | .ex1Ir | .ex2Ir => 4
  | .capDr | .shDr | .pauDr | .capIr | .shIr | .pauIr => 5

theorem onesToTlr_eq_zero_iff (p : TapState) : onesToTlr p = 0 ↔ p = .tlr := by
  cases p <;> decide

theorem onesToTlr_le_five (p : TapState) : onesToTlr p ≤ 5 := by
  cases p <;> decide

/-- A one leads one closer to TEST-LOGIC-RESET, which holds under ones. -/
theorem onesToTlr_transition (p : TapState) : onesToTlr (transition p true) = onesToTlr p - 1 := by
  cases p <;> rfl

theorem onesToTlr_walk (p : TapState) (k : Nat) :
    onesToTlr (walk p (List.replicate k true)) = onesToTlr p - k := by
  induction k generalizing p with
  | zero => rfl
  | succ k ih => rw [List.replicate_succ, walk_cons, ih, onesToTlr_transition, Nat.sub_sub, Nat.add_comm 1]

theorem walk_ones_eq_tlr_iff (p : TapState) (k : Nat) :
    walk p (List.replicate k true) = .tlr ↔ onesToTlr p ≤ k := by
  rw [← onesToTlr_eq_zero_iff, onesToTlr_walk, Nat.sub_eq_zero_iff_le]

theorem walk_five_ones (p : TapState) : walk p (List.replicate 5 true) = .tlr :=
  (walk_ones_eq_tlr_iff p 5).mpr (onesToTlr_le_five p)

/-- Control bits that lead from RUN-TEST/IDLE to a state. -/
def pathFromRti : TapState → List Bit
  | .tlr => [true, true, true]
  | .rti => []
  | .selDr => [true]
  | .capDr => [true, false]
  | .shDr => [true, false, false]
  | .ex1Dr => [true, false, true]
  | .pauDr => [true, false, true, false]
  | .ex2Dr => [true, false, true, false, true]
  | .updDr => [true, false, true, true]
  | .selIr => [true, true]
  | .capIr => [true, true, false]
  | .shIr => [true, true, false, false]
  | .ex1Ir => [true, true, false, true]
  | .pauIr => [true, true, false, true, false]
  | .ex2Ir => [true, true, false, true, false, true]
  | .updIr => [true, true, false, true, true]

theorem walk_pathFromRti (q : TapState) : walk .rti (pathFromRti q) = q := by
  cases q <;> rfl

/-- The six states of the register's column. -/
def column : RegKind → TapState → Bool
  | .dr => drColumn
  | .ir => irColumn

theorem column_of_fieldsLive {r : RegKind} {p : TapState} : fieldsLive r p = true → column r p = true := by
  cases r <;> cases p <;> decide

/-- A walk that enters the live states of a register was in its capture state. -/
theorem walk_through_capture {r : RegKind} {p : TapState} {cs : List Bit} (hp : fieldsLive r p = false)
    (hlive : fieldsLive r (walk p cs) = true) : ∃ n < cs.length, walk p (cs.take n) = captureState r := by
  induction cs generalizing p with
  | nil =>
    rw [walk_nil, hp] at hlive
    cases hlive
  | cons c cs ih =>
    by_cases hcap : p = captureState r
    · exact ⟨0, Nat.zero_lt_succ _, hcap⟩
    · have hnext : fieldsLive r (transition p c) = false := by
        refine Bool.eq_false_iff.mpr fun hlive' => ?_
        obtain hlive' | hcap' := live_transition hlive'
        · exact Bool.eq_false_iff.mp hp hlive'
        · exact hcap hcap'
      obtain ⟨n, hn, hwalk⟩ := ih hnext hlive
      exact ⟨n + 1, Nat.succ_lt_succ hn, hwalk⟩

theorem walk_through_capture_of_outside {r : RegKind} {p : TapState} {cs : List Bit} (hp : column r p = false)
    (hlive : fieldsLive r (walk p cs) = true) : ∃ n < cs.length, walk p (cs.take n) = captureState r :=
  walk_through_capture (Bool.eq_false_iff.mpr fun h => Bool.eq_false_iff.mp hp (column_of_fieldsLive h)) hlive

/-! Runs over frames. -/

/-- Without a capacity bound a running block takes any frames, and `tap` walks by their control bits. -/
theorem runSteps_walk {s : State} {p : TapState} {fs : List Frame} {rest : List Input} (hmax : s.cfg.bufMax = none)
    (hf : s.fault = none) (htap : s.tap = p.code) (hp : s.pending = fs.map InputOf.frame ++ rest) :
    ∃ t, runSteps fs.length s = .next t ∧ t.tap = (walk p (fs.map FrameOf.c)).code ∧ t.fault = none ∧
      t.pending = rest := by
  induction fs generalizing s p with
  | nil => exact ⟨s, rfl, htap, hf, hp⟩
  | cons f fs ih =>
    obtain ⟨u, hu⟩ := step_next s
    obtain ⟨hcfg, hpending, -⟩ := step_environment hu
    have hrunning : u.fault = none := step_runs_on hmax hf hu
    rw [List.length_cons, runSteps_succ hu]
    exact ih (by rw [hcfg, hmax]) hrunning (step_frame_tap hf htap hp hu hrunning) (by rw [hpending, hp]; rfl)

theorem advance_eq_noEvent {p : TapState} {c : Bit} {s : State} (h : s.tap = (transition p c).code) :
    s.advance p c = s.noEvent := by
  rw [State.advance, ← h, State.noEvent]

theorem deliver_eq_self {s : State} (h : s.event = none) : s.deliver = s := by
  have hnone : s.event.toList = [] := by rw [h, Option.toList_none]
  rw [State.deliver, hnone, List.append_nil]

/-- A one taken in TEST-LOGIC-RESET leaves the block as it was. -/
theorem step_tlr_one {s : State} {f : Frame} {rest : List Input} (hf : s.fault = none) (htap : s.tap = 0)
    (hp : s.pending = .frame f :: rest) (hc : f.c = true) :
    step s = .next { s with pending := rest, event := none } := by
  have hstay : (s.consume rest).advance .tlr f.c = (s.consume rest).noEvent :=
    advance_eq_noEvent (by rw [hc]; exact htap)
  rw [step_frame_next (p := .tlr) hp hf htap (exec_frameInstr_of_isNop rfl f _), ← advance_eq_moved, hstay,
    deliver_eq_self rfl]
  rfl

theorem runSteps_tlr_ones {s : State} {f : Frame} {fs : List Frame} {rest : List Input} (hf : s.fault = none)
    (htap : s.tap = 0) (hp : s.pending = (f :: fs).map InputOf.frame ++ rest) (hc : ∀ g ∈ f :: fs, g.c = true) :
    runSteps (fs.length + 1) s = .next { s with pending := rest, event := none } := by
  obtain ⟨hone, hones⟩ := List.forall_mem_cons.mp hc
  induction fs generalizing s f with
  | nil => exact runSteps_succ (step_tlr_one hf htap hp hone) 0
  | cons g fs ih =>
    obtain ⟨hone', hones'⟩ := List.forall_mem_cons.mp hones
    rw [List.length_cons, runSteps_succ (step_tlr_one hf htap hp hone)]
    exact ih hf htap rfl hones hone' hones'

end Sys2Proof.Machine

namespace Sys2Proof

open Machine

/-- Settles O41: `tap` walks by five ones. -/
theorem fiveOnesReachTestLogicReset : Obligations.FiveOnesReachTestLogicReset := by
  intro s f₁ f₂ f₃ f₄ f₅ rest hmax hf hp h₁ h₂ h₃ h₄ h₅
  obtain ⟨p, hcode⟩ := exists_state_of_code s.tap
  obtain ⟨t, hrun, htap, hfault, hpending⟩ := runSteps_walk hmax hf hcode.symm hp
  have hones : [f₁, f₂, f₃, f₄, f₅].map FrameOf.c = List.replicate 5 true := by
    simp only [List.map_cons, List.map_nil, h₁, h₂, h₃, h₄, h₅]
    rfl
  rw [hones, walk_five_ones] at htap
  exact ⟨t, hrun, htap, hfault, hpending⟩

/-- Settles O42, by induction on the frames. -/
theorem testLogicResetHoldsAndClearsNothing : Obligations.TestLogicResetHoldsAndClearsNothing :=
  fun _ _ _ _ => runSteps_tlr_ones

/-- Settles O44: the predecessors by the table read backwards, each column's entry by its live states. -/
theorem columnsAreEnteredThroughCapture : Obligations.ColumnsAreEnteredThroughCapture := by
  refine ⟨?_, ?_, ?_, ?_, ?_, ?_, by decide, ?_, ?_, ?_, ?_, ?_, ?_, by decide,
    fun p cs => walk_through_capture_of_outside (r := .dr), fun p cs => walk_through_capture_of_outside (r := .ir)⟩
  all_goals simp [transition_eq_iff, predecessors, exists_or]

/-- Settles O1. -/
theorem nopFramesOnlyMoveTheTap : Obligations.NopFramesOnlyMoveTheTap :=
  ⟨nopRule_frameInstr (p := .tlr) rfl, nopRule_frameInstr (p := .rti) rfl, nopRule_frameInstr (p := .selDr) rfl,
    nopRule_frameInstr (p := .ex1Dr) rfl, nopRule_frameInstr (p := .pauDr) rfl, nopRule_frameInstr (p := .ex2Dr) rfl,
    nopRule_frameInstr (p := .selIr) rfl, nopRule_frameInstr (p := .ex1Ir) rfl, nopRule_frameInstr (p := .pauIr) rfl,
    nopRule_frameInstr (p := .ex2Ir) rfl⟩

/-- Settles O2. -/
theorem captureDrClearsBothDrFields : Obligations.CaptureDrClearsBothDrFields :=
  frameRule_captureState .dr

/-- Settles O3: the rule with room, the rule without, and the pair form of each insertion. -/
theorem shiftDrInsertsOneBitInEachDrField : Obligations.ShiftDrInsertsOneBitInEachDrField :=
  ⟨frameRule_shiftState_of_room .dr, frameRule_shiftState_of_full .dr, fun tt th t h =>
    ⟨(insertPair_pairOf .back t tt).symm, (insertPair_pairOf .front h th).symm⟩⟩

/-- Settles O4. -/
theorem updateDrEmitsTheDrEvent : Obligations.UpdateDrEmitsTheDrEvent :=
  frameRule_updateState .dr

/-- Settles O5. -/
theorem captureIrClearsBothIrFields : Obligations.CaptureIrClearsBothIrFields :=
  ⟨frameRule_captureState .ir, rfl⟩

/-- Settles O6: the rule with room, the rule without, the pair form, and the weight of a bit beyond the eighth. -/
theorem shiftIrInsertsOneBitInEachIrField : Obligations.ShiftIrInsertsOneBitInEachIrField := by
  refine ⟨frameRule_shiftState_of_room .ir, frameRule_shiftState_of_full .ir, fun tt th t h =>
    ⟨(insertPair_pairOf .front t tt).symm, (insertPair_pairOf .back h th).symm⟩, fun tt => ⟨by simp, fun hlen => ?_⟩⟩
  have hweight : 2 ^ 8 ≤ 2 ^ tt.length := Nat.pow_le_pow_right (by decide) hlen
  rw [val_cons, Bool.toNat_true, Nat.one_mul]
  omega

/-- Settles O7. -/
theorem updateIrEmitsTheDecodedIrEvent : Obligations.UpdateIrEmitsTheDecodedIrEvent :=
  ⟨frameRule_updateState .ir, rfl⟩

/-- Settles O43: the listed numbers are those of `onesToTlr`. -/
theorem onesNeededToReachTestLogicReset : Obligations.OnesNeededToReachTestLogicReset := by
  refine ⟨?_, fun p c => ?_, fun p q => by rw [walk_five_ones, walk_five_ones]⟩
  · change ∀ row ∈ [TapState.tlr, .selIr, .selDr, .rti, .updDr, .updIr, .ex1Dr, .ex2Dr, .ex1Ir, .ex2Ir, .capDr, .shDr,
      .pauDr, .capIr, .shIr, .pauIr].map fun p => (p, onesToTlr p), _
    rw [List.forall_mem_map]
    exact fun p _ => ⟨(walk_ones_eq_tlr_iff p _).mpr le_rfl,
      fun j hj h => Nat.not_le_of_lt hj ((walk_ones_eq_tlr_iff p j).mp h)⟩
  · rw [transition_eq_iff, and_comm, or_and_right]
    simp [predecessors]

/-- Settles O45. -/
theorem exactlySixStatesHold : Obligations.ExactlySixStatesHold := by
  refine ⟨transition_eq_self_iff, fun p c hp => transition_mirror p hp c, rfl, rfl, fun p hp => ?_⟩
  obtain ⟨r, rfl⟩ := eq_updateState_of_isUpdate hp
  cases r <;> exact ⟨rfl, rfl⟩

/-- Settles O46: a path to every state, and GOTO_TLR back; a one leaves every state but TEST-LOGIC-RESET. -/
theorem everyStateIsReachable : Obligations.EveryStateIsReachable := by
  refine ⟨fun q => ⟨_, walk_pathFromRti q⟩, fun p => ?_, fun p => ?_⟩
  · change walk p (List.replicate 5 true ++ [false]) = .rti
    rw [walk_append, walk_five_ones]
    rfl
  · by_cases hp : p = .tlr
    · exact ⟨false, by rw [hp]; decide⟩
    · refine ⟨true, fun hstay => hp ((onesToTlr_eq_zero_iff p).mp ?_)⟩
      have hcloser := onesToTlr_transition p
      rw [hstay] at hcloser
      omega

end Sys2Proof
end

section
/-! PROOFS. The family of 41_shift_accumulator.md: the instruction that a step runs and the event it emits, the events of a
stream of frames, the decode entries, palindromes, and the phase of a register from its capture to its update. -/

namespace Sys2Proof.Machine

/-! The event of a frame (41_shift_accumulator.md R120, R121). -/

/-- The event that a running block emits on a frame taken in a state. -/
def frameEvent (p : TapState) (f : Frame) (s : State) : Option Event :=
  match p with
  | .updDr => some (updateEvent .dr f (s.fields .dr))
  | .updIr => some (updateEvent .ir f (s.fields .ir))
  | _ => none

theorem frameEvent_updateState (r : RegKind) (f : Frame) (s : State) :
    frameEvent (updateState r) f s = some (updateEvent r f (s.fields r)) := by
  cases r <;> rfl

theorem frameEvent_of_not_isUpdate {p : TapState} (hp : isUpdate p = false) (f : Frame) (s : State) :
    frameEvent p f s = none := by
  cases p
  case updDr => cases hp
  case updIr => cases hp
  all_goals rfl

theorem isSome_frameEvent (p : TapState) (f : Frame) (s : State) : (frameEvent p f s).isSome = isUpdate p := by
  cases p <;> rfl

@[simp] theorem frameEvent_consume (p : TapState) (f : Frame) (rest : List Input) (s : State) :
    frameEvent p f (s.consume rest) = frameEvent p f s := by
  cases p <;> rfl

/-- The instruction of a frame leaves the event of its state. -/
theorem exec_frameInstr_frameEvent {p : TapState} {f : Frame} {s u : State} (h : exec (frameInstr p f) s = .next u) :
    u.event = frameEvent p f s := by
  cases hp : isUpdate p with
  | false => rw [exec_frameInstr_event hp h, frameEvent_of_not_isUpdate hp]
  | true =>
    obtain ⟨r, rfl⟩ := eq_updateState_of_isUpdate hp
    rw [exec_updateState_event h, frameEvent_updateState]

theorem step_frame_event {s t : State} {p : TapState} {f : Frame} {rest : List Input} (hf : s.fault = none)
    (htap : s.tap = p.code) (hp : s.pending = .frame f :: rest) (h : step s = .next t) : t.event = frameEvent p f s := by
  obtain ⟨u, hu, -⟩ := exec_frameInstr_next p f (s.consume rest)
  obtain rfl := next_unique h (step_frame_next hp hf htap hu)
  rw [deliver_event, exec_frameInstr_frameEvent hu, frameEvent_consume]

/-- A step that ends with a fault leaves no event (60_exceptions.md R172). -/
theorem step_event_of_fault {s t : State} (h : step s = .next t) (ht : t.fault ≠ none) : t.event = none := by
  obtain ⟨-, rfl⟩ | ⟨rest, -, rfl⟩ | ⟨f, rest, -, -, rfl⟩ | ⟨f, rest, p, u, -, hf, -, hu, rfl⟩ := step_cases h
  · rfl
  · rfl
  · rfl
  · obtain ⟨hfault, -⟩ | ⟨r, -, -, rfl⟩ := exec_frameInstr_moves_or_faults hu
    · exact absurd (hfault.trans hf) ht
    · rfl

/-- An event of a frame is that of the frame's state, with its interval and the values of that register's fields. -/
theorem frameEvent_eq_some {p : TapState} {f : Frame} {s : State} {e : Event} (h : frameEvent p f s = some e) :
    ∃ r, p = updateState r ∧ e = updateEvent r f (s.fields r) := by
  have hp : isUpdate p = true := by rw [← isSome_frameEvent p f s, h, Option.isSome_some]
  obtain ⟨r, rfl⟩ := eq_updateState_of_isUpdate hp
  rw [frameEvent_updateState] at h
  exact ⟨r, rfl, (Option.some.inj h).symm⟩

/-- The register of an update state, and `ir` for every other state. -/
def updateKind (q : TapState) : RegKind :=
  if q = .updDr then .dr else .ir

/-- The kinds of the events of a frame: none, or that of its update state. -/
theorem frameEvent_kinds (p : TapState) (f : Frame) (s : State) :
    (frameEvent p f s).toList.map EventOf.kind = ([p].filter isUpdate).map updateKind := by
  cases p <;> rfl

/-- Without a capacity bound a running block takes any frames, and emits an event of the register's kind on each one that
is taken in an update state. -/
theorem runSteps_events {s : State} {p : TapState} {fs : List Frame} {rest : List Input} (hmax : s.cfg.bufMax = none)
    (hf : s.fault = none) (htap : s.tap = p.code) (hp : s.pending = fs.map InputOf.frame ++ rest) :
    ∃ t es, runSteps fs.length s = .next t ∧ t.pending = rest ∧ t.emitted = s.emitted ++ es ∧
      es.map EventOf.kind = ((preStates p fs).filter isUpdate).map updateKind := by
  induction fs generalizing s p with
  | nil => exact ⟨s, [], rfl, hp, (List.append_nil _).symm, rfl⟩
  | cons f fs ih =>
    obtain ⟨u, hu⟩ := step_next s
    obtain ⟨hcfg, hpending, hemitted⟩ := step_environment hu
    have hrunning : u.fault = none := step_runs_on hmax hf hu
    have hnext : u.pending = fs.map InputOf.frame ++ rest := by rw [hpending, hp]; rfl
    obtain ⟨t, es, hrun, hdone, hes, hkinds⟩ :=
      ih (by rw [hcfg, hmax]) hrunning (step_frame_tap hf htap hp hu hrunning) hnext
    refine ⟨t, u.event.toList ++ es, by rw [List.length_cons, runSteps_succ hu, hrun], hdone, ?_, ?_⟩
    · rw [hes, hemitted, List.append_assoc]
    · have hfilter : (preStates p (f :: fs)).filter isUpdate =
          [p].filter isUpdate ++ (preStates (transition p f.c) fs).filter isUpdate := List.filter_append [p] _
      rw [List.map_append, step_frame_event hf htap hp hu, frameEvent_kinds, hkinds, hfilter, List.map_append]

/-! The decode entries (42_ir_decode.md R141 to R155). -/

/-- An entry's instruction is the meaning of the entry that carries the name. -/
theorem exec_entryInstr (v : Nat) (n : InstrName) (s : State) : exec (entryInstr v n) s = runEntry v n s := by
  cases n <;> rfl

theorem nameEvent_eq_ite (n : InstrName) (e : Event) :
    nameEvent n e = if e.kind = .ir then { e with instruction := some n } else e := by
  cases h : e.kind <;> simp [h]

theorem namingRule_entryInstr (v : Nat) (n : InstrName) : namingRule (entryInstr v n) n := by
  intro s
  rw [exec_entryInstr, runEntry_eq, State.writeName, funext (nameEvent_eq_ite n)]

/-! Palindromes (41_shift_accumulator.md R124). -/

/-- Among the sequences of one length, the value determines the sequence. -/
theorem val_injective_of_length_eq {xs ys : Bits} (hlen : xs.length = ys.length) (h : val xs = val ys) : xs = ys := by
  induction xs generalizing ys with
  | nil => exact (List.length_eq_zero_iff.mp hlen.symm).symm
  | cons x xs ih =>
    obtain ⟨y, ys, rfl⟩ := List.exists_cons_of_length_eq_add_one hlen.symm
    have htail : xs.length = ys.length := Nat.succ.inj hlen
    have hx := val_lt xs
    have hy := val_lt ys
    rw [val_cons, val_cons, htail] at h
    rw [htail] at hx
    cases x <;> cases y <;> simp only [Bool.toNat_true, Bool.toNat_false] at h
    · rw [ih htail (by omega)]
    · omega
    · omega
    · rw [ih htail (by omega)]

theorem val_eq_val_reverse_iff (xs : Bits) : val xs = val xs.reverse ↔ xs.reverse = xs :=
  ⟨fun h => (val_injective_of_length_eq List.length_reverse.symm h).symm, fun h => by rw [h]⟩

theorem msbFirstSum_eq_lsbFirstSum_iff (xs : Bits) : msbFirstSum xs = lsbFirstSum xs ↔ xs.reverse = xs := by
  rw [← val_eq_msbFirstSum, ← val_reverse, val_eq_val_reverse_iff]

/-- Bits inserted one by one at the back stand in the order of their insertion. -/
theorem foldl_insertBit_back (xs field : Bits) :
    xs.foldl (fun field b => insertBit .back b field) field = field ++ xs := by
  induction xs generalizing field with
  | nil => exact (List.append_nil field).symm
  | cons x xs ih => rw [List.foldl_cons, ih, insertBit_back, List.append_assoc, List.singleton_append]

/-- Bits inserted one by one at the front stand in the opposite order. -/
theorem foldl_insertBit_front (xs field : Bits) :
    xs.foldl (fun field b => insertBit .front b field) field = xs.reverse ++ field := by
  simp only [insertBit_front, List.foldl_flip_cons_eq_append, List.map_id']

/-! A step of a running block on a frame that finds room, or that emits nothing. -/

/-- A running block takes a frame whose shift, if any, finds room: `tap` moves, the fields of each register are as
`fieldsAfter` says, and the event is that of the state. -/
theorem step_of_room {s : State} {p : TapState} {f : Frame} {rest : List Input} (hf : s.fault = none)
    (htap : s.tap = p.code) (hp : s.pending = .frame f :: rest) (hroom : ∀ r, p = shiftState r → s.full r = false) :
    ∃ t, step s = .next t ∧ t.fault = none ∧ t.tap = (transition p f.c).code ∧ t.pending = rest ∧ t.cfg = s.cfg ∧
      (∀ r, t.fields r = fieldsAfter r p f (s.fields r)) ∧ t.event = frameEvent p f s ∧
      t.emitted = s.emitted ++ (frameEvent p f s).toList := by
  obtain ⟨u, hu, hcfg, hpending, hemitted⟩ := exec_frameInstr_next p f (s.consume rest)
  obtain ⟨hfault, hmove, hfields⟩ := exec_frameInstr_of_room (s := s.consume rest) hroom hu
  have hevent : u.event = frameEvent p f s := by rw [exec_frameInstr_frameEvent hu, frameEvent_consume]
  exact ⟨u.deliver, step_frame_next hp hf htap hu, hfault.trans hf, hmove, hpending, hcfg, hfields, hevent,
    by rw [deliver_emitted, hemitted, hevent, consume_emitted]⟩

/-- A frame that emits nothing is taken to the state that its instruction leaves. -/
theorem step_of_not_isUpdate {s u : State} {p : TapState} {f : Frame} {rest : List Input} (hf : s.fault = none)
    (htap : s.tap = p.code) (hp : s.pending = .frame f :: rest) (hquiet : isUpdate p = false)
    (hu : exec (frameInstr p f) (s.consume rest) = .next u) : step s = .next u := by
  rw [step_frame_next hp hf htap hu, deliver_eq_self (exec_frameInstr_event hquiet hu)]

/-- A frame whose action is NOP moves `tap` and nothing else. -/
theorem step_of_isNop {s : State} {p : TapState} {f : Frame} {rest : List Input} (hf : s.fault = none)
    (htap : s.tap = p.code) (hp : s.pending = .frame f :: rest) (hnop : isNop p = true) :
    step s = .next { s with tap := (transition p f.c).code, event := none, pending := rest } := by
  obtain ⟨hquiet, -⟩ := of_isNop hnop
  rw [step_of_not_isUpdate hf htap hp hquiet (exec_frameInstr_of_isNop hnop f _), ← advance_eq_moved]
  rfl

/-- A frame in the shift state inserts its two bits, where both fields have room. -/
theorem step_shiftState_of_room {r : RegKind} {s : State} {f : Frame} {rest : List Input} (hf : s.fault = none)
    (htap : s.tap = (shiftState r).code) (hp : s.pending = .frame f :: rest) (hroom : s.hasRoomIn r) :
    step s = .next
      { (s.moved (shiftState r) f.c).setFields r (shifted r f (s.fields r)) with pending := rest } := by
  have hfull : s.full r = false := Bool.eq_false_iff.mpr fun h => (not_hasRoomIn_iff r s).mpr h hroom
  rw [step_of_not_isUpdate hf htap hp (by cases r <;> rfl) (exec_shiftState_of_room (s := s.consume rest) hfull f)]
  cases r <;> rfl

/-! Pauses (41_shift_accumulator.md R122). -/

@[simp] theorem preStates_cons (p : TapState) (f : Frame) (fs : List Frame) :
    preStates p (f :: fs) = p :: preStates (transition p f.c) fs := rfl

theorem preStates_append (p : TapState) (fs gs : List Frame) :
    preStates p (fs ++ gs) = preStates p fs ++ preStates (walk p (fs.map FrameOf.c)) gs := by
  induction fs generalizing p with
  | nil => rfl
  | cons f fs ih => simp [ih]

/-- A state that holds under `c = 0` holds under any number of such frames, and all of them are taken in it. -/
theorem walk_of_holds {p : TapState} {fs : List Frame} (hp : transition p false = p) (hc : ∀ f ∈ fs, f.c = false) :
    walk p (fs.map FrameOf.c) = p ∧ ∀ q ∈ preStates p fs, q = p := by
  induction fs with
  | nil => exact ⟨rfl, by simp [preStates]⟩
  | cons f fs ih =>
    obtain ⟨hzero, hzeros⟩ := List.forall_mem_cons.mp hc
    obtain ⟨hwalk, hpre⟩ := ih hzeros
    rw [List.map_cons, walk_cons, preStates_cons, hzero, hp]
    exact ⟨hwalk, List.forall_mem_cons.mpr ⟨rfl, hpre⟩⟩

/-- A positive number of frames whose action is NOP only moves `tap`, along their control bits. -/
theorem runSteps_nops {s : State} {p : TapState} {f : Frame} {fs : List Frame} {rest : List Input}
    (hf : s.fault = none) (htap : s.tap = p.code) (hp : s.pending = (f :: fs).map InputOf.frame ++ rest)
    (hnop : ∀ q ∈ preStates p (f :: fs), isNop q = true) :
    runSteps (fs.length + 1) s =
      .next { s with tap := (walk p ((f :: fs).map FrameOf.c)).code, event := none, pending := rest } := by
  induction fs generalizing s p f with
  | nil => exact runSteps_succ (step_of_isNop hf htap hp (hnop p List.mem_cons_self)) 0
  | cons g fs ih =>
    obtain ⟨hfirst, hlater⟩ := List.forall_mem_cons.mp hnop
    rw [List.length_cons, runSteps_succ (step_of_isNop hf htap hp hfirst)]
    exact ih hf rfl rfl hlater

/-- The state that the last shift frame leads to. -/
def exit1State : RegKind → TapState
  | .dr => .ex1Dr
  | .ir => .ex1Ir

/-- The state that holds the register's fields as long as `c = 0`. -/
def pauseState : RegKind → TapState
  | .dr => .pauDr
  | .ir => .pauIr

/-- The state from which a pause goes on to a shift or to the update. -/
def exit2State : RegKind → TapState
  | .dr => .ex2Dr
  | .ir => .ex2Ir

section
variable {r : RegKind} {s : State} {f g h : Frame} {fs : List Frame} {rest : List Input}

/-- A pause of any length leads from EXIT1 back to SHIFT and changes nothing but `tap`. -/
theorem runSteps_pause (hf : s.fault = none) (htap : s.tap = (exit1State r).code)
    (hp : s.pending = (f :: fs ++ [g, h]).map InputOf.frame ++ rest) (hfc : f.c = false)
    (hfs : ∀ q ∈ fs, q.c = false) (hgc : g.c = true) (hhc : h.c = false) :
    runSteps (fs.length + 3) s = .next { s with tap := (shiftState r).code, event := none, pending := rest } := by
  have henter : transition (exit1State r) false = pauseState r := by cases r <;> rfl
  have hleave : transition (pauseState r) true = exit2State r := by cases r <;> rfl
  have hback : transition (exit2State r) false = shiftState r := by cases r <;> rfl
  obtain ⟨hstay, hpre⟩ := walk_of_holds (p := pauseState r) (by cases r <;> rfl) hfs
  have hwalk : walk (exit1State r) ((f :: (fs ++ [g, h])).map FrameOf.c) = shiftState r := by
    simp [walk_append, hfc, henter, hstay, hgc, hleave, hhc, hback]
  have hnop : ∀ q ∈ preStates (exit1State r) (f :: (fs ++ [g, h])), isNop q = true := by
    rw [preStates_cons, preStates_append, hfc, henter, hstay, preStates_cons, preStates_cons, hgc, hleave]
    intro q hq
    simp only [List.mem_cons, List.mem_append, preStates, List.not_mem_nil, or_false] at hq
    obtain rfl | hq | rfl | rfl := hq
    · cases r <;> rfl
    · rw [hpre q hq]
      cases r <;> rfl
    · cases r <;> rfl
    · cases r <;> rfl
  have hrun := runSteps_nops (fs := fs ++ [g, h]) hf htap hp hnop
  rwa [hwalk, List.length_append] at hrun

/-- The frame after a pause inserts its bits into the fields that stood before the pause. -/
theorem runSteps_pause_shift {q : Frame} {later : List Input} (hf : s.fault = none)
    (htap : s.tap = (exit1State r).code)
    (hp : s.pending = (f :: fs ++ [g, h]).map InputOf.frame ++ .frame q :: later) (hfc : f.c = false)
    (hfs : ∀ q ∈ fs, q.c = false) (hgc : g.c = true) (hhc : h.c = false) (hroom : s.hasRoomIn r) :
    runSteps (fs.length + 4) s = .next
      { (s.moved (shiftState r) q.c).setFields r (shifted r q (s.fields r)) with pending := later } := by
  have hstep := step_shiftState_of_room (r := r) (f := q) (rest := later)
    (s := { s with tap := (shiftState r).code, event := none, pending := .frame q :: later }) hf rfl rfl
    (by cases r <;> exact hroom)
  rw [runSteps_concat (runSteps_pause hf htap hp hfc hfs hgc hhc) hstep]
  cases r <;> rfl

end

/-! From a capture to the update (41_shift_accumulator.md R122, R125). -/

/-- The states between the capture and the update of a register. -/
def shiftPhase (r : RegKind) : List TapState :=
  [shiftState r, exit1State r, pauseState r, exit2State r]

theorem of_mem_shiftPhase {r : RegKind} {p : TapState} (hp : p ∈ shiftPhase r) :
    isUpdate p = false ∧ p ≠ captureState r ∧ ∀ q, p = shiftState q → q = r := by
  simp only [shiftPhase, List.mem_cons, List.not_mem_nil, or_false] at hp
  obtain rfl | rfl | rfl | rfl := hp <;>
    exact ⟨by cases r <;> rfl, by cases r <;> decide, fun q => by cases r <;> cases q <;> decide⟩

/-- The two data bits of a frame, the to-target bit first. -/
def dataBits (f : Frame) : Bit × Bit :=
  (f.t, f.h)

theorem map_fst_dataBits (fs : List Frame) : (fs.map dataBits).map Prod.fst = fs.map FrameOf.t :=
  List.map_map

theorem map_snd_dataBits (fs : List Frame) : (fs.map dataBits).map Prod.snd = fs.map FrameOf.h :=
  List.map_map

theorem framesIn_singleton (q p : TapState) (f : Frame) : framesIn q p [f] = if p = q then [f] else [] := by
  by_cases h : p = q <;> simp [framesIn, preStates, h]

theorem framesIn_cons (q p : TapState) (f : Frame) (fs : List Frame) :
    framesIn q p (f :: fs) = framesIn q p [f] ++ framesIn q (transition p f.c) fs := by
  by_cases h : p = q <;> simp [framesIn, preStates, h]

/-- A frame taken outside the capture state adds its bits to the fields if it is taken in the shift state. -/
theorem fieldsAfter_eq_shiftedAll {r : RegKind} {p : TapState} (hcap : p ≠ captureState r) (f : Frame)
    (x : Bits × Bits) :
    fieldsAfter r p f x = shiftedAll r ((framesIn (shiftState r) p [f]).map dataBits) x := by
  rw [framesIn_singleton]
  by_cases hshift : p = shiftState r
  · rw [if_pos hshift, hshift, fieldsAfter_shiftState, shifted_eq_shiftedAll]
    rfl
  · rw [if_neg hshift, fieldsAfter_of_ne hcap hshift]
    cases r <;> simp [shiftedAll]

/-- Frames taken between the capture and the update of a register, with room for the bits of those taken in its shift
state: these bits, and no others, are in the fields after them, and nothing is emitted. -/
theorem runSteps_shiftPhase {r : RegKind} {p : TapState} {fs : List Frame} {s : State} {rest : List Input}
    (hf : s.fault = none) (htap : s.tap = p.code) (hp : s.pending = fs.map InputOf.frame ++ rest)
    (hphase : ∀ q ∈ preStates p fs, q ∈ shiftPhase r)
    (hroom : roomFor (framesIn (shiftState r) p fs).length s.cfg.bufMax (s.fields r)) :
    ∃ t, runSteps fs.length s = .next t ∧ t.fault = none ∧ t.tap = (walk p (fs.map FrameOf.c)).code ∧
      t.pending = rest ∧ t.emitted = s.emitted ∧
      t.fields r = shiftedAll r ((framesIn (shiftState r) p fs).map dataBits) (s.fields r) := by
  induction fs generalizing s p with
  | nil => exact ⟨s, rfl, hf, htap, hp, rfl, by cases r <;> simp [framesIn, preStates, shiftedAll]⟩
  | cons f fs ih =>
    obtain ⟨hhere, hlater⟩ := List.forall_mem_cons.mp hphase
    obtain ⟨hquiet, hcap, hother⟩ := of_mem_shiftPhase hhere
    rw [framesIn_cons] at hroom ⊢
    rw [List.length_append] at hroom
    have hfull : ∀ q, p = shiftState q → s.full q = false := by
      intro q hq
      obtain rfl := hother q hq
      rw [framesIn_singleton, if_pos hq, List.length_singleton, Nat.add_comm] at hroom
      exact full_eq_false_of_roomFor hroom
    obtain ⟨u, hu, hfault, hmove, hpending, hcfg, hfields, -, hemitted⟩ := step_of_room hf htap hp hfull
    have hbits := (hfields r).trans (fieldsAfter_eq_shiftedAll hcap f _)
    obtain ⟨t, hrun, hrunning, hwalk, hdone, hsilent, hall⟩ := ih hfault hmove hpending hlater (by
      rw [hcfg, hbits]
      exact roomFor_shiftedAll r (by rwa [List.length_map]))
    refine ⟨t, by rw [List.length_cons, runSteps_succ hu, hrun], hrunning, hwalk, hdone, ?_, ?_⟩
    · rw [hsilent, hemitted, frameEvent_of_not_isUpdate hquiet, Option.toList_none, List.append_nil]
    · rw [hall, hbits, shiftedAll_append, List.map_append]

/-- The frames of a register from its capture to its update, with room for the bits of those taken in its shift state: the
last one's event, and no other, is emitted, with the values of these bits. -/
theorem runSteps_capture_to_update {r : RegKind} {f g : Frame} {fs : List Frame} {s : State} {rest : List Input}
    (hf : s.fault = none) (htap : s.tap = (captureState r).code)
    (hp : s.pending = (f :: fs ++ [g]).map InputOf.frame ++ rest)
    (hphase : ∀ q ∈ preStates (transition (captureState r) f.c) fs, q ∈ shiftPhase r)
    (hwalk : walk (captureState r) ((f :: fs).map FrameOf.c) = updateState r)
    (hroom : ∀ n, s.cfg.bufMax = some n → (framesIn (shiftState r) (captureState r) (f :: fs)).length ≤ n) :
    ∃ t, runSteps (fs.length + 2) s = .next t ∧ t.fault = none ∧
      t.event = some (updateEvent r g (shiftedAll r
        ((framesIn (shiftState r) (captureState r) (f :: fs)).map dataBits) ([], []))) ∧
      t.emitted = s.emitted ++ t.event.toList := by
  have hframes : framesIn (shiftState r) (captureState r) (f :: fs) =
      framesIn (shiftState r) (transition (captureState r) f.c) fs := by
    rw [framesIn_cons, framesIn_singleton, if_neg (by cases r <;> decide), List.nil_append]
  rw [hframes] at hroom ⊢
  have hframes' : s.pending = .frame f :: (fs.map InputOf.frame ++ .frame g :: rest) := by simpa using hp
  obtain ⟨u, hu, hfault, hmove, hpending, hcfg, hclear, -, hemitted⟩ :=
    step_of_room hf htap hframes' fun q hq => absurd hq (by cases r <;> cases q <;> decide)
  have hempty : u.fields r = ([], []) := (hclear r).trans (fieldsAfter_captureState r f _)
  obtain ⟨v, hv, hfault', hmove', hpending', hsilent, hall⟩ := runSteps_shiftPhase (r := r) hfault hmove hpending hphase
    fun n hn => by
      rw [hempty]
      simpa using hroom n (hcfg ▸ hn)
  rw [← walk_cons, ← List.map_cons, hwalk] at hmove'
  obtain ⟨t, ht, hrunning, -, -, -, -, hevent, hlast⟩ :=
    step_of_room hfault' hmove' hpending' fun q hq => absurd hq (updateState_ne_shiftState r q)
  refine ⟨t, by rw [runSteps_succ hu, runSteps_concat hv ht], hrunning, ?_, ?_⟩
  · rw [hevent, frameEvent_updateState, hall, hempty]
  · rw [hlast, ← hevent, hsilent, hemitted, frameEvent_of_not_isUpdate (by cases r <;> rfl), Option.toList_none,
      List.append_nil]

/-- Two frames with `c = 1` and any third from the capture state: an empty shift, whose values are 0. -/
theorem runSteps_empty_shift {r : RegKind} {f g h : Frame} {s : State} {rest : List Input} (hf : s.fault = none)
    (htap : s.tap = (captureState r).code) (hp : s.pending = [f, g, h].map InputOf.frame ++ rest) (hfc : f.c = true)
    (hgc : g.c = true) :
    ∃ t, runSteps 3 s = .next t ∧ t.fault = none ∧ t.event = some (updateEvent r h ([], [])) ∧
      t.emitted = s.emitted ++ t.event.toList := by
  have hexit : transition (captureState r) true = exit1State r := by cases r <;> rfl
  have hupdate : transition (exit1State r) true = updateState r := by cases r <;> rfl
  have hnone : framesIn (shiftState r) (captureState r) [f, g] = [] := by
    rw [framesIn_cons, framesIn_singleton, framesIn_singleton, hfc, hexit, if_neg (by cases r <;> decide),
      if_neg (by cases r <;> decide), List.nil_append]
  have hphase : ∀ q ∈ preStates (transition (captureState r) f.c) [g], q ∈ shiftPhase r := by
    rw [hfc, hexit]
    exact List.forall_mem_singleton.mpr (by simp [shiftPhase])
  obtain ⟨t, hrun, hfault, hevent, hemitted⟩ := runSteps_capture_to_update hf htap hp hphase
    (by simp [hfc, hexit, hgc, hupdate]) (by simp [hnone])
  refine ⟨t, hrun, hfault, ?_, hemitted⟩
  rw [hevent, hnone]
  cases r <;> rfl

/-- The values of a DR event by its bits in shift order (30_encoding.md R69). -/
theorem updateEvent_dr_values (f : Frame) (bits : List (Bit × Bit)) :
    (updateEvent .dr f (shiftedAll .dr bits ([], []))).toTarget = msbFirstSum (bits.map Prod.fst) ∧
    (updateEvent .dr f (shiftedAll .dr bits ([], []))).toHost = lsbFirstSum (bits.map Prod.snd) := by
  simp [updateEvent, shiftedAll, val_eq_msbFirstSum, ← val_reverse]

/-- The values of an IR event by its bits in shift order (30_encoding.md R69). -/
theorem updateEvent_ir_values (f : Frame) (bits : List (Bit × Bit)) :
    (updateEvent .ir f (shiftedAll .ir bits ([], []))).toTarget = lsbFirstSum (bits.map Prod.fst) ∧
    (updateEvent .ir f (shiftedAll .ir bits ([], []))).toHost = msbFirstSum (bits.map Prod.snd) := by
  simp [updateEvent, shiftedAll, val_eq_msbFirstSum, ← val_reverse]

end Sys2Proof.Machine

namespace Sys2Proof

open Machine

/-- Settles O33, by induction on the stream: the number of events is that of their kinds. -/
theorem eventCountOverAStream : Obligations.EventCountOverAStream := by
  intro fs s p rest hmax hf htap hp
  obtain ⟨t, es, hrun, hdone, hes, hkinds⟩ := runSteps_events hmax hf htap hp
  have hcount := congrArg List.length hkinds
  rw [List.length_map, List.length_map] at hcount
  exact ⟨t, es, hrun, hdone, hes, hcount, hkinds⟩

/-- Settles O32: a running block emits the event of the frame's state, a halted one nothing. -/
theorem eventExactlyOnUpdateFrames : Obligations.EventExactlyOnUpdateFrames := by
  intro s t p f rest htap hp h
  obtain ⟨-, -, hemitted⟩ := step_environment h
  refine ⟨hemitted, ?_, step_event_of_fault h, ?_⟩
  · by_cases hf : s.fault = none
    · rw [step_frame_event hf htap hp h, isSome_frameEvent]
      simp [hf]
    · obtain rfl := next_unique h (step_frame_halted hp hf)
      simp [hf]
  · intro e he
    by_cases hf : s.fault = none
    · rw [step_frame_event hf htap hp h] at he
      obtain ⟨r, rfl, rfl⟩ := frameEvent_eq_some he
      refine ⟨rfl, rfl, ?_⟩
      cases r
      · exact .inl ⟨rfl, rfl, rfl, rfl⟩
      · exact .inr ⟨rfl, rfl, rfl, rfl⟩
    · obtain rfl := next_unique h (step_frame_halted hp hf)
      cases he

/-- Settles O51: at the two ends the same bits stand in opposite orders, and the values of two sequences of one length are
equal only if the sequences are. -/
theorem drAndIrAgreeExactlyOnPalindromes : Obligations.DrAndIrAgreeExactlyOnPalindromes := by
  refine ⟨fun xs => ?_, fun xs => ?_, fun x xs k => ?_⟩
  · rw [drTtEnd, irTtEnd, foldl_insertBit_back, foldl_insertBit_front, List.nil_append, List.append_nil,
      val_eq_val_reverse_iff]
  · rw [drThEnd, irThEnd, foldl_insertBit_back, foldl_insertBit_front, List.nil_append, List.append_nil, eq_comm,
      val_eq_val_reverse_iff]
  · obtain ⟨t, d, -, hdr, -, -, -, -, -, hd, -, -, -, hdTarget, hdHost, -⟩ :=
      drScanReportsTheShiftedBits (x :: xs) k (State.reset.present (stampFrom k (scanDr (x :: xs)))) [] rfl
        List.mem_cons_self (fun _ hn => by cases hn) rfl
    obtain ⟨u, i, -, hir, -, -, -, -, -, hi, -, -, -, hiTarget, hiHost, -⟩ :=
      irScanReportsAndDecodesTheShiftedBits x xs k (State.reset.present (stampFrom k (scanIr x xs))) [] rfl
        List.mem_cons_self (fun _ hn => by cases hn) rfl
    refine ⟨t, u, d, i, hdr, hir, hd, hi, ?_, ?_⟩
    · rw [hdTarget, hiTarget, msbFirstSum_eq_lsbFirstSum_iff]
    · rw [hdHost, hiHost, eq_comm, msbFirstSum_eq_lsbFirstSum_iff]

/-- Settles O54: a pause is a run of frames whose action is NOP; the path to the update by induction on the frames between
it and the capture. -/
theorem pauseDoesNotEndAShiftPhase : Obligations.PauseDoesNotEndAShiftPhase := by
  refine ⟨fun s f g h fs rest hf hp hfc hfs hgc hhc => ?_, fun s f g fs rest hf htap hp hphase hwalk hroom => ?_,
    fun s f g fs rest hf htap hp hphase hwalk hroom => ?_⟩
  · refine ⟨fun htap => runSteps_pause (r := .dr) hf htap hp hfc hfs hgc hhc,
      fun htap => runSteps_pause (r := .ir) hf htap hp hfc hfs hgc hhc, ?_⟩
    rintro q later rfl
    exact ⟨fun htap htt hth => runSteps_pause_shift (r := .dr) hf htap hp hfc hfs hgc hhc ⟨htt, hth⟩,
      fun htap htt hth => runSteps_pause_shift (r := .ir) hf htap hp hfc hfs hgc hhc ⟨htt, hth⟩⟩
  · obtain ⟨t, hrun, -, hevent, -⟩ := runSteps_capture_to_update (r := .dr) hf htap hp hphase hwalk hroom
    obtain ⟨htarget, hhost⟩ := updateEvent_dr_values g ((framesIn .shDr .capDr (f :: fs)).map dataBits)
    rw [map_fst_dataBits] at htarget
    rw [map_snd_dataBits] at hhost
    exact ⟨t, _, hrun, hevent, rfl, htarget, hhost⟩
  · obtain ⟨t, hrun, -, hevent, -⟩ := runSteps_capture_to_update (r := .ir) hf htap hp hphase hwalk hroom
    obtain ⟨htarget, hhost⟩ := updateEvent_ir_values g ((framesIn .shIr .capIr (f :: fs)).map dataBits)
    rw [map_fst_dataBits] at htarget
    rw [map_snd_dataBits] at hhost
    exact ⟨t, _, hrun, hevent, rfl, htarget, hhost⟩

/-- Settles O55: an empty shift is a path from the capture to the update with no frame in the shift state. -/
theorem emptyShiftReportsZero : Obligations.EmptyShiftReportsZero := by
  intro s f g h rest hf hp hfc hgc
  exact ⟨fun htap => runSteps_empty_shift (r := .dr) hf htap hp hfc hgc,
    fun htap => runSteps_empty_shift (r := .ir) hf htap hp hfc hgc⟩

/-- Settles O56: the value decodes to the instruction of the entry that IR.UPDATE runs. -/
theorem irUpdateRunsTheSelectedEntry : Obligations.IrUpdateRunsTheSelectedEntry := by
  rintro f s i ⟨⟩
  rw [exec_entryInstr, ← transition_code_of_isUpdate (p := .updIr) rfl]
  rfl

/-- Settles O8: each row is the instruction of the entry with its name. -/
theorem entriesWriteOnlyTheirName : Obligations.EntriesWriteOnlyTheirName := by
  have hrow := namingRule_entryInstr 0
  exact ⟨hrow .irAddr16bit, hrow .irAddrCapture, hrow .irDataToAddr, hrow .irData16bit, hrow .irDataQuick,
    hrow .irBypass, hrow .irCntrlSig16bit, hrow .irCntrlSigCapture, hrow .irCntrlSigRelease, hrow .irDataPsa,
    hrow .irShiftOutPsa, hrow .irPrepareBlow, hrow .irExBlow, hrow .irJmbExchange,
    fun v => namingRule_entryInstr v .unknown⟩

/-- Settles O19: the word that the step forms is the decoded one, and every instruction has a next state. -/
theorem stepRunsTheDecodedInstruction : Obligations.StepRunsTheDecodedInstruction := by
  intro s f rest i hp hf hi
  obtain ⟨u, hu⟩ := exec_next i (s.consume rest)
  have hu' : exec i { s with pending := rest } = .next u := hu
  rw [step_frame_eq_runFetched hf hp, hi, runFetched_ok, hu, hu']
  rfl

end Sys2Proof
end

section
/-! PROOFS. The family of 42_ir_decode.md: the table of distinct keys read in both directions, the field that holds a key
among longer fields, and the name in the event of a step. -/

namespace Sys2Proof

/-! The decode table (42_ir_decode.md R140, R155, R158). -/

/-- Where the keys are distinct, every row is found by its key, at whatever place it stands. -/
theorem lookup_of_mem {table : List (Nat × InstrName)} (hkeys : (table.map Prod.fst).Nodup) {v : Nat} {n : InstrName}
    (hrow : (v, n) ∈ table) : table.lookup v = some n := by
  cases hfound : table.lookup v with
  | none =>
    have hdiffer := List.lookup_eq_none_iff.mp hfound _ hrow
    simp at hdiffer
  | some m =>
    have hsame : (v, m) = (v, n) := List.inj_on_of_nodup_map hkeys (lookup_mem hfound) hrow rfl
    rw [(Prod.mk.inj hsame).2]

theorem irTable_keys_nodup : (irTable.map Prod.fst).Nodup := by decide

/-- A row of the table gives its name to its key. -/
theorem decodeName_of_row {v : Nat} {n : InstrName} (hrow : (v, n) ∈ irTable) : decodeName v = n := by
  rw [decodeName, lookup_of_mem irTable_keys_nodup hrow, Option.getD_some]

/-- A key is an 8-bit value, and no row has the name of the fallback. -/
theorem irTable_row : ∀ row ∈ irTable, row.1 < 0x100 ∧ row.2 ≠ .unknown := by decide

theorem unlisted_iff (v : Nat) : unlisted v = true ↔ v ∉ irTable.map Prod.fst := by
  rw [unlisted, List.all_eq_true, ← List.forall_mem_ne', List.forall_mem_map]
  simp

/-- The fallback is the name of exactly the values that are no key (42_ir_decode.md R155). -/
theorem decodeName_eq_unknown_iff (v : Nat) : decodeName v = .unknown ↔ v ∉ irTable.map Prod.fst := by
  rw [← unlisted_iff]
  refine ⟨fun hname => ?_, decodeName_of_unlisted⟩
  obtain hrow | hunlisted := decodeName_cases v
  · exact absurd hname (irTable_row _ hrow).2
  · exact hunlisted

/-- The whole value is compared, so none beyond 8 bits is a key (42_ir_decode.md R156). -/
theorem decodeName_of_le {v : Nat} (hv : 0x100 ≤ v) : decodeName v = .unknown := by
  rw [decodeName_eq_unknown_iff, List.mem_map]
  rintro ⟨row, hrow, rfl⟩
  exact Nat.not_lt_of_le hv (irTable_row row hrow).1

theorem decode_irv (v : Nat) : decode (.irv v) = .ok (entryInstr v (decodeName v)) := rfl

/-- The unlisted values of a range, counted by its keys. -/
theorem length_filter_range_not_mem {keys : List Nat} {n : Nat} (hkeys : keys.Nodup) (hlt : ∀ k ∈ keys, k < n) :
    ((List.range n).filter (· ∉ keys)).length = n - keys.length := by
  have hsdiff : ((List.range n).filter (· ∉ keys)).toFinset = Finset.range n \ keys.toFinset := by
    ext v
    simp
  have hsub : keys.toFinset ⊆ Finset.range n := fun k hk => by simpa using hlt k (by simpa using hk)
  rw [← List.toFinset_card_of_nodup (List.nodup_range.filter _), hsdiff, Finset.card_sdiff_of_subset hsub,
    Finset.card_range, List.toFinset_card_of_nodup hkeys]

end Sys2Proof

namespace Sys2Proof.Machine

/-! Longer fields: later bits stand in front of the first ones (42_ir_decode.md R156). -/

theorem val_replicate_false_append (n : Nat) (field : Bits) : val (List.replicate n false ++ field) = val field := by
  induction n with
  | zero => rfl
  | succ n ih => simpa [List.replicate_succ] using ih

theorem val_pos_of_mem {field : Bits} (h : true ∈ field) : 0 < val field := by
  induction field with
  | nil => cases h
  | cons b field ih =>
    rw [val_cons]
    obtain rfl | htail := List.mem_cons.mp h
    · simp
    · exact Nat.add_pos_left (ih htail) _

/-- A later 1 weighs more than all the first bits together. -/
theorem two_pow_le_val_append {later field : Bits} (h : true ∈ later) : 2 ^ field.length ≤ val (later ++ field) := by
  rw [val_append]
  exact (Nat.le_mul_of_pos_left _ (val_pos_of_mem h)).trans (Nat.le_add_right _ _)

/-! The event of IR.UPDATE (42_ir_decode.md R157). -/

/-- An event that a step leaves is that of a register's fields on a frame of its update state. -/
theorem step_event_eq_updateEvent {s t : State} {e : Event} (h : step s = .next t) (he : t.event = some e) :
    ∃ r f, e = updateEvent r f (s.fields r) := by
  obtain ⟨-, rfl⟩ | ⟨rest, -, rfl⟩ | ⟨f, rest, -, -, rfl⟩ | ⟨f, rest, p, u, -, -, -, hu, rfl⟩ := step_cases h
  · cases he
  · cases he
  · cases he
  · rw [deliver_event, exec_frameInstr_frameEvent hu, frameEvent_consume] at he
    obtain ⟨r, -, rfl⟩ := frameEvent_eq_some he
    exact ⟨r, f, rfl⟩

/-- A row of the table whose key an 8-bit field holds: the rule of its entry, with the code and the instruction of its
name. -/
theorem entryRule_of_row {key : Nat} {field : Bits} {name mirrored : InstrName} (hrow : (key, name) ∈ irTable)
    (hfield : val field = key) (hlen : field.length = 8) (hmirrored : decodeName (val field.reverse) = mirrored) :
    entryRule key field name.code name (entryInstr key name) mirrored := by
  have hname := decodeName_of_row hrow
  refine ⟨hfield, hname, rfl, ?_, hmirrored, fun n => ?_, fun later hlater => ?_, fun f s hs => ?_⟩
  · rw [decode_irv, hname]
  · rw [val_replicate_false_append, hfield, hname]
  · have hlarge : 0x100 ≤ val (later ++ field) := by simpa [hlen] using two_pow_le_val_append (field := field) hlater
    exact ⟨hlarge, decodeName_of_le hlarge⟩
  · exact ⟨_, _, exec_updateState .ir f s, rfl, rfl, hs, by rw [← hname, ← hs]; rfl⟩

end Sys2Proof.Machine

namespace Sys2Proof

open Machine

/-- Settles O9: each is a row of the table, its key held by the field. -/
theorem decodeTableEntriesLeftColumn : Obligations.DecodeTableEntriesLeftColumn :=
  ⟨entryRule_of_row (name := .irAddr16bit) (by decide) rfl rfl rfl,
    entryRule_of_row (name := .irAddrCapture) (by decide) rfl rfl rfl,
    entryRule_of_row (name := .irDataToAddr) (by decide) rfl rfl rfl,
    entryRule_of_row (name := .irData16bit) (by decide) rfl rfl rfl,
    entryRule_of_row (name := .irDataQuick) (by decide) rfl rfl rfl,
    entryRule_of_row (name := .irBypass) (by decide) rfl rfl rfl,
    entryRule_of_row (name := .irCntrlSig16bit) (by decide) rfl rfl rfl⟩

/-- Settles O10: each is a row of the table, its key held by the field. -/
theorem decodeTableEntriesRightColumn : Obligations.DecodeTableEntriesRightColumn :=
  ⟨entryRule_of_row (name := .irCntrlSigCapture) (by decide) rfl rfl rfl,
    entryRule_of_row (name := .irCntrlSigRelease) (by decide) rfl rfl rfl,
    entryRule_of_row (name := .irDataPsa) (by decide) rfl rfl rfl,
    entryRule_of_row (name := .irShiftOutPsa) (by decide) rfl rfl rfl,
    entryRule_of_row (name := .irPrepareBlow) (by decide) rfl rfl rfl,
    entryRule_of_row (name := .irExBlow) (by decide) rfl rfl rfl,
    entryRule_of_row (name := .irJmbExchange) (by decide) rfl rfl rfl⟩

/-- Settles O11: the values that are no key, 14 distinct ones below 256 being keys, and the event of IR.UPDATE. -/
theorem unlistedValuesDecodeToUnknown : Obligations.UnlistedValuesDecodeToUnknown := by
  refine ⟨decodeName_eq_unknown_iff, rfl, fun v => decodeName_of_le, rfl, ?_, rfl, fun v hv => ?_, fun f s hs => ?_⟩
  · simp only [decodeName_eq_unknown_iff]
    exact length_filter_range_not_mem irTable_keys_nodup (List.forall_mem_map.mpr fun row hrow => (irTable_row row hrow).1)
  · rw [decode_irv, hv, entryInstr]
  · obtain ⟨⟨hexec, -⟩, -⟩ := updateIrEmitsTheDecodedIrEvent
    exact hs ▸ hexec f s trivial

/-- Settles O40: the name stands in the event of IR.UPDATE, and in no other. -/
theorem irEventsCarryTheDecodedNameDrEventsNone : Obligations.IrEventsCarryTheDecodedNameDrEventsNone := by
  intro s t e h he
  obtain ⟨r, f, rfl⟩ := step_event_eq_updateEvent h he
  cases r with
  | dr => exact ⟨nofun, fun _ => rfl⟩
  | ir => exact ⟨fun _ => rfl, nofun⟩

/-- Settles O12: a value that is no row's key is no member of the list of keys. -/
theorem decodeTableKeysAreDistinct : Obligations.DecodeTableKeysAreDistinct := by
  refine ⟨rfl, irTable_keys_nodup, fun row hrow => decodeName_of_row hrow, fun v hv => ?_, rfl, rfl⟩
  rw [decodeName_eq_unknown_iff, List.mem_map]
  rintro ⟨row, hrow, hkey⟩
  exact hv row hrow hkey

end Sys2Proof
end

section
/-! PROOFS. The family of 60_exceptions.md: the renaming of time tags, the halted block, the entry into a fault, and the step
without an input. -/

namespace Sys2Proof.Machine

/-! The renaming of time tags (60_exceptions.md R181). -/

/-- A state is its block, its event output, its inputs and its output sequence. -/
theorem eq_of_block_eq {s t : State} (hblock : s.block = t.block) (hevent : s.event = t.event)
    (hpending : s.pending = t.pending) (hemitted : s.emitted = t.emitted) : s = t := by
  obtain ⟨htap, hdrTt, hdrTh, hirTt, hirTh, hfault, hcfg⟩ := (block_eq_iff t s).mp hblock
  cases s
  cases t
  congr

@[simp] theorem retime_block (g : NatTime → NatTime) (s : State) : (s.retime g).block = s.block := rfl
@[simp] theorem retime_event (g : NatTime → NatTime) (s : State) :
    (s.retime g).event = s.event.map (EventOf.retag g) := rfl
@[simp] theorem retime_pending (g : NatTime → NatTime) (s : State) :
    (s.retime g).pending = s.pending.map (InputOf.retag g) := rfl
@[simp] theorem retime_emitted (g : NatTime → NatTime) (s : State) :
    (s.retime g).emitted = s.emitted.map (EventOf.retag g) := rfl

/-- A step of the state with its tags renamed is the step of the state, renamed: the block reads none of them, and the event
carries those of the frame. -/
theorem step_retime {s t : State} (g : NatTime → NatTime) (h : step s = .next t) :
    step (s.retime g) = .next (t.retime g) := by
  rcases hp : s.pending with _ | ⟨i, rest⟩
  · obtain rfl := next_unique h (step_of_pending_nil hp)
    exact step_of_pending_nil (by rw [retime_pending, hp, List.map_nil])
  · obtain ⟨t', ht', hblock, hevent⟩ :=
      step_retag g (retime_block g s) hp (by rw [retime_pending, hp, List.map_cons]) h
    obtain ⟨-, hpending, hemitted⟩ := step_environment h
    obtain ⟨-, hpending', hemitted'⟩ := step_environment ht'
    have heq : t' = t.retime g := by
      refine eq_of_block_eq hblock hevent ?_ ?_
      · rw [hpending', retime_pending, retime_pending, hpending, List.map_tail]
      · rw [hemitted', hevent, retime_emitted, retime_emitted, hemitted, List.map_append]
        cases t.event <;> rfl
    rw [ht', heq]

/-! The halted block (60_exceptions.md R173). -/

/-- A halted block lets any positive number of frames pass. -/
theorem runSteps_frames_halted {s : State} {f : Frame} {fs : List Frame} {rest : List Input} (hf : s.fault ≠ none)
    (hp : s.pending = (f :: fs).map InputOf.frame ++ rest) :
    runSteps (fs.length + 1) s = .next (s.consume rest).noEvent := by
  induction fs generalizing s f with
  | nil => exact runSteps_succ (step_frame_halted hp hf) 0
  | cons g fs ih =>
    rw [List.length_cons, runSteps_succ (step_frame_halted hp hf)]
    exact ih hf rfl

/-- A step of a halted block leaves no event, and it takes a reset or leaves `fault` as it is. -/
theorem step_halted {s t : State} (hf : s.fault ≠ none) (h : step s = .next t) :
    t.event = none ∧ ((∃ rest, s.pending = .rst :: rest) ∨ t.fault = s.fault) := by
  obtain ⟨-, rfl⟩ | ⟨rest, hp, rfl⟩ | ⟨f, rest, -, -, rfl⟩ | ⟨f, rest, p, u, -, hrunning, -, -, -⟩ := step_cases h
  · exact ⟨rfl, .inr rfl⟩
  · exact ⟨rfl, .inl ⟨rest, hp⟩⟩
  · exact ⟨rfl, .inr rfl⟩
  · exact absurd hrunning hf

/-! The entry into a fault (60_exceptions.md R172, R174). -/

/-- A step that halts a running block is the shift of a full register, and takes the fault on the state with the frame
consumed. -/
theorem step_faults {s t : State} (hf : s.fault = none) (h : step s = .next t) (ht : t.fault ≠ none) :
    ∃ r, s.tap = (shiftState r).code ∧ s.full r = true ∧
      t = (s.consume s.pending.tail).takeFault (.capacityExceeded (shiftState r)) := by
  obtain ⟨-, rfl⟩ | ⟨rest, -, rfl⟩ | ⟨f, rest, -, hhalted, -⟩ | ⟨f, rest, p, u, hp, -, htap, hu, rfl⟩ := step_cases h
  · exact absurd hf ht
  · exact absurd rfl ht
  · exact absurd hf hhalted
  · obtain ⟨hfault, -⟩ | ⟨r, rfl, hfull, rfl⟩ := exec_frameInstr_moves_or_faults hu
    · exact absurd (hfault.trans hf) ht
    · exact ⟨r, htap, hfull, by rw [hp, List.tail_cons, deliver_eq_self rfl]⟩

/-- A full register is one of a finite instance, with a field that holds `BUF_MAX` bits. -/
theorem exists_bufMax_of_full {r : RegKind} {s : State} (h : s.full r = true) :
    ∃ n, s.cfg.bufMax = some n ∧ ((s.fields r).1.length = n ∨ (s.fields r).2.length = n) := by
  obtain htt | hth := (full_iff r s).mp h
  · exact ⟨_, htt, .inl rfl⟩
  · exact ⟨_, hth, .inr rfl⟩

end Sys2Proof.Machine

namespace Sys2Proof

open Machine

/-- Settles O48: every step has a next state, and the step of the renamed state leads to that state, renamed. -/
theorem timeTagsAreOnlyCopied : Obligations.TimeTagsAreOnlyCopied := by
  intro g s
  obtain ⟨t, ht⟩ := step_next s
  rw [ht, step_retime g ht]

/-- Settles O22: the frames by induction on their number, the end of the halt by the cases of a step. -/
theorem haltedBlockIgnoresFramesUntilReset : Obligations.HaltedBlockIgnoresFramesUntilReset := by
  refine ⟨fun s f fs rest => runSteps_frames_halted, fun s t hf h ht => ?_⟩
  obtain ⟨-, hrst | hkept⟩ := step_halted hf h
  · exact hrst
  · exact absurd (hkept.symm.trans ht) hf

/-- Settles O26: the shift of a full register, for each of the two. -/
theorem onlyAFullShiftFaultsAndWritesNothingElse : Obligations.OnlyAFullShiftFaultsAndWritesNothingElse := by
  intro s t hf h ht
  obtain ⟨r, htap, hfull, rfl⟩ := step_faults hf h ht
  obtain ⟨n, hn, hlen⟩ := exists_bufMax_of_full hfull
  refine ⟨rfl, rfl, n, hn, ?_⟩
  cases r with
  | dr => exact .inl ⟨htap, hlen, rfl⟩
  | ir => exact .inr ⟨htap, hlen, rfl⟩

/-- Settles O29: neither a halted block nor a step that ends with a fault leaves an event. -/
theorem faultAndEventNeverComeTogether : Obligations.FaultAndEventNeverComeTogether := by
  intro s t h he
  refine ⟨not_not.mp fun hf => ?_, not_not.mp fun ht => he (step_event_of_fault h ht)⟩
  obtain ⟨hevent, -⟩ := step_halted hf h
  exact he hevent

/-- Settles O21, by the equation of a step without an input. -/
theorem nothingHappensWithoutAnInput : Obligations.NothingHappensWithoutAnInput :=
  fun _ => step_of_pending_nil

end Sys2Proof
end

section
/-! PROOFS. The family of 70_reset_and_hazards.md: what a reset writes, and the first frame after it. -/

namespace Sys2Proof

open Machine

/-- Settles O23: the equation of a step that takes a reset, the values of the reset state, and the only end of a halt. -/
theorem resetPutsEveryElementAtItsResetValue : Obligations.ResetPutsEveryElementAtItsResetValue := by
  obtain ⟨-, hexit⟩ := haltedBlockIgnoresFramesUntilReset
  exact ⟨fun s rest => step_rst, ⟨rfl, rfl, rfl, rfl, rfl, rfl⟩, hexit⟩

/-- Settles O25: the reset state is a running block in RUN-TEST/IDLE, whose action is NOP; `c` chooses the next state. -/
theorem firstFrameAfterReset : Obligations.FirstFrameAfterReset := by
  intro f
  have hstep : step (State.reset.present [f]) = .next { State.reset with tap := (transition .rti f.c).code } :=
    step_of_isNop (p := .rti) rfl rfl rfl rfl
  rw [hstep]
  cases f.c with
  | false => rfl
  | true => rfl

end Sys2Proof
end
